-- ==== Sys2Proof/Word.lean ====
section
/-!
DEFINITION. The word types: a byte, the 16-bit words of tags, stamps and profile items, and the 32-bit words of
box numbers and of the quay clock (spec/12_formats.md, 12.1).
-/

namespace Sys2Proof

/-- One byte of a frame, a record or a payload (12.1). -/
abbrev Byte := BitVec 8

/-- A two-byte value: an order tag, a truck tag, a grant stamp, a profile item (12.1). -/
abbrev Word16 := BitVec 16

/-- A four-byte value: a box number or the quay clock (12.1). -/
abbrev Word32 := BitVec 32

end Sys2Proof
end

