-- ==== Sys2Proof/Syntax.lean ====
section
/-!
DEFINITION. The commands of the LQ48: one constructor of Instr for each of the 68 rows of spec/opcode_table.json.
A command carries the bytes the part receives (log entry 1): the record of a request after its code, the station
bytes and payload of a frame; the row itself fixes the request code or the frame kind.
-/

namespace Sys2Proof

/-- The two quay links (spec/08_quay_links.md). -/
inductive Link where
  | crane | lane
deriving DecidableEq, Repr

/-- A frame received whole, less its kind, which the row of the table fixes: the addressed station byte and the
sending station byte with their reserved bits, and the payload (12.2). -/
structure RxFrame where
  dest    : Byte
  src     : Byte
  payload : List Byte
deriving DecidableEq, Repr

/-- One profile record as the flash gives it (12.4): the header, the words that follow it and the byte that
follows the last counted word. The header's value count says how many words belong to the record, and its mark
whether the checksum byte does. -/
structure FlashRecord where
  header   : Word16
  v1       : Word16
  v2       : Word16
  v3       : Word16
  v4       : Word16
  checksum : Byte
deriving DecidableEq, Repr

/-- How a format error was found (R152, R153): SEL rose inside a byte, a clock edge came before READY, or the
transfer code names no transfer. -/
inductive FormatCause where
  | midByte | earlyEdge | badCode
deriving DecidableEq, Repr

/-- The commands. Requests carry the bytes of the request record AFTER the request code (operand length, two
bytes, and the operands, 12.3); frames carry an RxFrame; JOIN, LEAVE and STOP name the link they came on. -/
inductive Instr where
  | reset
  | profileRecord (r : FlashRecord)
  | profileRead (record : List Byte)
  | profileWrite (record : List Byte)
  | attach (record : List Byte)
  | planReset (record : List Byte)
  | berthLoad (record : List Byte)
  | orderOpen (record : List Byte)
  | orderEntries (record : List Byte)
  | orderClose (record : List Byte)
  | orderCancel (record : List Byte)
  | moveDefer (record : List Byte)
  | moveReinstate (record : List Byte)
  | moveClearDone (record : List Byte)
  | moveClearRetry (record : List Byte)
  | moveClearCancel (record : List Byte)
  | craneEnable (record : List Byte)
  | craneClear (record : List Byte)
  | gangClear (record : List Byte)
  | laneOpen (record : List Byte)
  | laneClose (record : List Byte)
  | laneClear (record : List Byte)
  | laneAssign (record : List Byte)
  | quayStop (record : List Byte)
  | quayResume (record : List Byte)
  | linkHold (record : List Byte)
  | tableRead (record : List Byte)
  /-- A REPLY selection in which the host clocks out `n` bytes after the transfer code. -/
  | reply (n : Nat)
  /-- An EVENTS selection in which the host clocks out `n` bytes after the transfer code. -/
  | events (n : Nat)
  /-- A STATUS selection in which the host clocks out `n` bytes after the transfer code. -/
  | status (n : Nat)
  /-- A selection that ends in a format error: its cause, the transfer code as received, and the index of the failing
  byte in the selection, the transfer code being byte 0. `written` is what a REQUEST selection had written of its
  record before that byte. -/
  | portFormat (cause : FormatCause) (code : Byte) (index : Word16) (written : List Byte)
  | guardEnd
  /-- The bytes of a frame as they were seen on the link. -/
  | malformedFrame (link : Link) (raw : List Byte)
  | join (link : Link) (f : RxFrame)
  | leave (link : Link) (f : RxFrame)
  | stop (link : Link) (f : RxFrame)
  | qstopFall
  | gantryReq (f : RxFrame)
  | arrived (f : RxFrame)
  | spreaderSet (f : RxFrame)
  | liftStart (f : RxFrame)
  | liftDone (f : RxFrame)
  | liftFail (f : RxFrame)
  | spot (f : RxFrame)
  | lashStart (f : RxFrame)
  | lashDone (f : RxFrame)
  | lashDecline (f : RxFrame)
  | truckEnter (f : RxFrame)
  | truckSet (f : RxFrame)
  | truckExit (f : RxFrame)
  | obsActivation (lane : Nat)
  | obsInactive (lane : Nat)
  | pulseTimerExpiry (lane : Nat)
  | lockoutTimerExpiry (lane : Nat)
  | windowTimerExpiry (lane : Nat)
  | gantryTimerExpiry (crane : Nat)
  | acceptanceTimerExpiry (crane : Nat)
  | liftTimerExpiry (crane : Nat)
  | truckWaitTimerExpiry (crane : Nat)
  | lashTimerExpiry (gang : Nat)
  | attempt (link : Link)
  | delivered (link : Link)
  | failedAttempt (link : Link)
  | quietCountComplete (link : Link)
  | qstopRise
  | quietInterval (link : Link)
  | quayClockTick
  /-- A request record with no code, or whose first byte names no request. -/
  | unknownRequest (record : List Byte)
deriving DecidableEq, Repr

end Sys2Proof
end

