-- ==== Sys2Proof/Decode.lean ====
section
/-!
DEFINITION. What a word spells: the opcode table gives none of its rows any bits, so no word spells a command
(log entry 4).
-/

namespace Sys2Proof

/-- The command that `nbits` bits `w` spell by the table's bits: none, for every word. -/
def decodeTableWord (_nbits _w : Nat) : Option Instr := none

end Sys2Proof
end

