-- ==== Sys2Proof/Config.lean ====
section
/-!
DEFINITION. What the implementation fixes (sizes, limits, thresholds the spec gives as constants) and the free
values: constants with no body for what the spec leaves open (log entries 6 and 7).
-/

namespace Sys2Proof.Config

/-- Transmit slots of the Frame Slot Pool (R148). -/
def slots : Nat := 40

/-- Routine frames queued on both links together (R148). -/
def routineLimit : Nat := 32

/-- Attempts after which a frame is dropped (R147). -/
def attemptLimit : Nat := 4

/-- Records of the Event Queue (R160). -/
def eventRecords : Nat := 32

/-- Slots of the Order Table (R18). -/
def orderSlots : Nat := 24

/-- Records of the Move Store (R21). -/
def moveRecords : Nat := 384

/-- Orders a waiting-order list holds (R34). -/
def waitingLimit : Nat := 8

/-- Entries of a hold stack (R60). -/
def stackLimit : Nat := 3

/-- Trucks of a lane's FIFO (R102). -/
def fifoLimit : Nat := 4

/-- Lanes assigned to one crane (R113). -/
def laneLimit : Nat := 3

/-- Record bytes the Planner Port holds, the request code among them (R169). -/
def portBytes : Nat := 448

/-- Records of one loader attempt (R166). -/
def loaderRecords : Nat := 2048

/-- Fault score at which ACTIVE becomes WARN (R144). -/
def warnScore : Nat := 80

/-- Fault score at which WARN becomes ACTIVE again (R144). -/
def calmScore : Nat := 63

/-- Fault score at which a link becomes SILENT (R144). -/
def silentScore : Nat := 200

/-- FREE VALUE (log entry 6): whether, at a freed slot, the Permit Unit's claims reach the pool before Lashing
Dispatch's (R150 gives no order), for the n-th such report. -/
opaque permitUnitFirst : Nat → Bool

/-- FREE VALUE (log entry 7): a number that fixes how much of the pulse timer of a lane is left when it is read,
for the n-th read; it is reduced into the range the timer allows. -/
opaque pulseLeft : Nat → Nat → Nat

end Sys2Proof.Config
end

