-- ==== Sys2Proof/Machine/Items.lean ====
section
/-!
DEFINITION. The table of profile items (R162, R159) of spec/10_profile_and_start_up.md: number, range, default and
stage rule of each item.
-/

namespace Sys2Proof.Machine

/-- One row of the table of R162. -/
structure ItemRow where
  no     : Nat
  low    : Nat
  high   : Nat
  deflt  : Nat
  /-- writable only in CONFIG -/
  config : Bool
deriving DecidableEq, Repr

namespace Item

def bayCount : Nat := 1
def craneCount : Nat := 2
def gangCount : Nat := 3
def separation : Nat := 4
def deckCapDefault : Nat := 5
def holdCapDefault : Nat := 6
def tAccept : Nat := 7
def tLift : Nat := 8
def tTruck : Nat := 9
def tGantry : Nat := 10
def tLash : Nat := 11
def obsMin : Nat := 12
def obsLockout : Nat := 13
def obsWindow : Nat := 14
def laneMapMode : Nat := 15
def laneEnabled : Nat := 16
/-- LANE_REMAP_p is item 16 + p. -/
def laneRemap (p : Nat) : Nat := 16 + p
def rejoinQuiet : Nat := 25
def txCap : Nat := 26
def autoAttach : Nat := 27
def failLimit : Nat := 28
/-- The report level of the event kind of index k is item 100 + k (R159). -/
def level (k : Nat) : Nat := 100 + k

end Item

/-- Items 1 to 16 (R162). -/
def itemRowsLow : List ItemRow :=
  [⟨Item.bayCount, 1, 60, 24, true⟩, ⟨Item.craneCount, 1, 6, 4, true⟩, ⟨Item.gangCount, 0, 8, 4, true⟩,
   ⟨Item.separation, 1, 6, 2, true⟩, ⟨Item.deckCapDefault, 0, 120, 60, true⟩,
   ⟨Item.holdCapDefault, 0, 200, 120, true⟩, ⟨Item.tAccept, 1, 60, 8, false⟩, ⟨Item.tLift, 30, 900, 180, false⟩,
   ⟨Item.tTruck, 10, 900, 240, false⟩, ⟨Item.tGantry, 10, 900, 150, false⟩, ⟨Item.tLash, 60, 3600, 900, false⟩,
   ⟨Item.obsMin, 1, 40, 4, false⟩, ⟨Item.obsLockout, 0, 120, 5, false⟩, ⟨Item.obsWindow, 1, 255, 30, false⟩,
   ⟨Item.laneMapMode, 0, 1, 0, true⟩, ⟨Item.laneEnabled, 0, 255, 255, true⟩]

/-- Items 17 to 24, LANE_REMAP_1 to LANE_REMAP_8: the default is the lane's own number (R162). -/
def itemRowsRemap : List ItemRow :=
  [1, 2, 3, 4, 5, 6, 7, 8].map fun p => ⟨Item.laneRemap p, 0, 8, p, true⟩

/-- Items 25 to 28 (R162). -/
def itemRowsHigh : List ItemRow :=
  [⟨Item.rejoinQuiet, 8, 128, 32, false⟩, ⟨Item.txCap, 4, 24, 16, false⟩, ⟨Item.autoAttach, 0, 1, 0, true⟩,
   ⟨Item.failLimit, 1, 5, 3, false⟩]

/-- Default report levels of the event kinds of index 0 to 37, in order of index (R159). -/
def defaultLevels : List Nat :=
  [1, 1, 1, 1, 1, 1, 1, 1, 1] ++ [2, 2, 2, 2, 2, 2, 2, 2, 2, 2, 2, 2, 2, 2, 2, 2, 2] ++
  [3, 3, 3, 3, 3, 3, 3, 3, 3] ++ [1, 1, 0]

/-- Items 100 to 137, the report levels (R162). -/
def itemRowsLevels : List ItemRow :=
  defaultLevels.zipIdx.map fun x => ⟨Item.level x.2, 0, 3, x.1, false⟩

/-- Every row of the table of R162. -/
def itemRows : List ItemRow :=
  itemRowsLow ++ itemRowsRemap ++ itemRowsHigh ++ itemRowsLevels

/-- The row of an item number; none where the number names no item (R163, check 1). -/
def itemRow (no : Nat) : Option ItemRow :=
  itemRows.find? fun r => r.no = no

/-- A value lies in an item's range. LANE_ENABLED's range 0..255 keeps its bits 8 to 15 zero (R162). -/
def ItemRow.admits (r : ItemRow) (v : Word16) : Bool :=
  decide (r.low ≤ v.toNat ∧ v.toNat ≤ r.high)

/-- Every item at its default (R162). -/
def defaultProfile : List (Nat × Word16) :=
  itemRows.map fun r => (r.no, BitVec.ofNat 16 r.deflt)

end Sys2Proof.Machine
end

