-- ==== Sys2Proof/Machine/State.lean ====
section
/-!
DEFINITION. The state of the LQ48 as plain data: every record, list, mark, counter and buffer that the spec gives
the part (INVENTORY.md, State), the queue of waiting commands, the state after reset, and the reasons a step can
stop. A field that shows another block's state (a claim, a station state in a context, stop in force, ATTN) is
computed where it is read (log entry 27).
-/

namespace Sys2Proof.Machine

/-- The reasons a step stops with a fault. There is none: what the manual calls a fault is state that a command
leaves (a FAULTED move, a crane in FAULT, a format error), and the part goes on (safe: nothing is hidden). -/
inductive Fault where
deriving DecidableEq, Repr

/-- The reasons a step is refused. -/
inductive Refusal where
  /-- Raised by Dispatch's arm of a command that has no meaning yet; safe. No arm raises it now. -/
  | notModelled (mnemonic : String)
deriving DecidableEq, Repr

/-! ## Berth Table (chapter 1) -/

inductive Hatch where
  | on | off
deriving DecidableEq, Repr

/-- Deck lash state (R4); OPEN is written `opened`. -/
inductive Lash where
  | lashed | unlashDue | unlashing | opened | lashDue | lashing
deriving DecidableEq, Repr

/-- The stored fields of a bay record (R1). -/
structure Bay where
  num       : Nat
  deckCount : Nat
  holdCount : Nat
  deckCap   : Nat
  holdCap   : Nat
  hatch     : Hatch
  lash      : Lash
deriving DecidableEq, Repr

/-! ## Work orders and the Move Store (chapter 2) -/

inductive OrderKind where
  | discharge | load | hatchOff | hatchOn
deriving DecidableEq, Repr

inductive BaySection where
  | deck | hold
deriving DecidableEq, Repr

inductive LiftClass where
  | single20 | single40 | twin20 | cover
deriving DecidableEq, Repr

inductive SweepOrdering where
  | strict | flex
deriving DecidableEq, Repr

inductive Priority where
  | normal | urgent
deriving DecidableEq, Repr

inductive OrderState where
  | assembling | waiting | active | stacked | cancelling
deriving DecidableEq, Repr

/-- One group of an order: a lift class and a move count (R18). -/
structure Group where
  cls   : LiftClass
  count : Nat
deriving DecidableEq, Repr

/-- An order record (R18). -/
structure Order where
  slot      : Nat
  tag       : Word16
  kind      : OrderKind
  crane     : Nat
  bay       : Nat
  sect      : BaySection
  rowCount  : Option Nat
  startRow  : Option Nat
  ordering  : Option SweepOrdering
  priority  : Priority
  groups    : List Group
  total     : Nat
  state     : OrderState
  live      : Nat
  done      : Nat
  cancelled : Nat
  stalled   : Bool
deriving DecidableEq, Repr

/-- One entry of the assembly context (R26). -/
structure Entry where
  row      : Nat
  tier     : Nat
  box      : Option Word32
  partner  : Option Word32
  heldBack : Bool
deriving DecidableEq, Repr

/-- The assembly context (R25), with the records reserved for the order in the order taken (R22). -/
structure Assembly where
  slot        : Nat
  reserved    : List Nat
  entries     : List Entry
  lateEnd     : Bool
  firstFailed : Option Nat
  firstRepeat : Option Nat
deriving DecidableEq, Repr

inductive MoveState where
  | deferred | queued | staged | matched | permitted | lifting | faulted
deriving DecidableEq, Repr

/-- The truck field of a move: tag and logical lane (R21). -/
structure TruckRef where
  tag  : Word16
  lane : Nat
deriving DecidableEq, Repr

/-- A live move record (R21). -/
structure Move where
  num     : Nat
  order   : Nat
  crane   : Nat
  bay     : Nat
  sect    : BaySection
  kind    : OrderKind
  cls     : LiftClass
  row     : Option Nat
  tier    : Option Nat
  box     : Option Word32
  partner : Option Word32
  group   : Nat
  pos     : Nat
  state   : MoveState
  truck   : Option TruckRef
  stamp   : Option Word16
  fails   : Nat
deriving DecidableEq, Repr

/-! ## Cranes (chapter 3) -/

inductive StationState where
  | offline | online | lost
deriving DecidableEq, Repr

inductive CraneState where
  | offline | idle | positioning | working | fault
deriving DecidableEq, Repr

inductive SpreaderMode where
  | unknown | single | twin
deriving DecidableEq, Repr

/-- A span: low bay and high bay (R45). -/
structure Span where
  low  : Nat
  high : Nat
deriving DecidableEq, Repr

/-- A timer: stopped, or running or held with its remaining time (R42). -/
inductive Timer where
  | stopped
  | running (left : Nat)
  | held (left : Nat)
deriving DecidableEq, Repr

/-- An entry of a hold stack (R60). The bay is the crane's bay at the push, absent only for a crane that has none. -/
structure StackEntry where
  order  : Nat
  bay    : Option Nat
  mode   : SpreaderMode
  enable : Bool
deriving DecidableEq, Repr

/-- A crane context (R42), with the truck wait timer and late count the Permit Unit keeps per crane (R70).
Orders are named by Order Table slot; the hold stack's top is its head. -/
structure Crane where
  num         : Nat
  state       : CraneState
  bay         : Option Nat
  span        : Option Span
  target      : Option Nat
  faultMark   : Bool
  spreader    : SpreaderMode
  enable      : Bool
  savedEnable : Bool
  active      : Option Nat
  waiting     : List Nat
  current     : Option Nat
  preempt     : Option Nat
  stack       : List StackEntry
  gantry      : Timer
  accept      : Timer
  lift        : Timer
  truckWait   : Timer
  late        : Nat
deriving DecidableEq, Repr

/-! ## Truck lanes (chapter 5) -/

/-- Lane states (R95); OPEN is written `opened`. -/
inductive LaneState where
  | disabled | closed | opening | opened | caution | faulted
deriving DecidableEq, Repr

inductive LoadState where
  | empty | laden
deriving DecidableEq, Repr

inductive TruckCapacity where
  | c20 | c40
deriving DecidableEq, Repr

inductive Qualifier where
  | idle | timing
deriving DecidableEq, Repr

/-- A truck record (R102). -/
structure Truck where
  tag      : Word16
  load     : LoadState
  capacity : TruckCapacity
  box      : Option Word32
  partner  : Option Word32
  set      : Bool
  bound    : Option Nat
  misorder : Bool
deriving DecidableEq, Repr

/-- A lane record (R95); the FIFO is head first. The pulse timer counts units of 50 ms, the others seconds. -/
structure Lane where
  phys      : Nat
  logical   : Nat
  state     : LaneState
  crane     : Option Nat
  fifo      : List Truck
  qualifier : Qualifier
  pulse     : Timer
  lockout   : Timer
  window    : Timer
deriving DecidableEq, Repr

/-! ## Lashing gangs (chapter 6) -/

inductive GangState where
  | idle | ordered | working
deriving DecidableEq, Repr

inductive LashTask where
  | unlash | lash
deriving DecidableEq, Repr

/-- A gang record (R119). -/
structure Gang where
  num     : Nat
  state   : GangState
  task    : Option LashTask
  bay     : Option Nat
  lastBay : Nat
  timer   : Timer
deriving DecidableEq, Repr

/-! ## Quay stop (chapter 7) -/

/-- A quay-stop source (R132, R133). -/
inductive Source where
  | pin
  | planner
  | crane (n : Nat)
  | gang (g : Nat)
deriving DecidableEq, Repr

/-- The stop record (R132). The sources stand in rising order of their codes (12.1), none twice. -/
structure StopRecord where
  sources : List Source
  first   : Option Source
  start   : Option Word32
deriving DecidableEq, Repr

/-! ## Quay links (chapter 8) -/

inductive Role where
  | crane | gang | gate
deriving DecidableEq, Repr

/-- An entry of a station table (R141). -/
structure Station where
  num   : Nat
  role  : Option Role
  state : StationState
deriving DecidableEq, Repr

inductive LinkState where
  | detached | rejoin | active | warn | silent
deriving DecidableEq, Repr

/-- What a link controller holds (R141, R144, R146); its queue stands in the Frame Slot Pool. `ack` and `out` are
the model's own outputs: whether the last frame received was acknowledged (R140), and the bytes of the last
attempt (R147). -/
structure LinkCtl where
  state    : LinkState
  score    : Nat
  quiet    : Nat
  complete : Bool
  hold     : Bool
  stations : List Station
  ack      : Bool
  out      : List Byte
deriving DecidableEq, Repr

/-- Refusal reasons of 12.1, in requests and in frames; `ok` is code 00h. -/
inductive Reason where
  | ok | badRequest | busy | stage | badValue | assemblyBusy | tagInUse | badCrane | badBay | groupEmpty | badClass
  | tooLong | orderTableFull | craneListFull | storeFull | lateEnd | earlyEnd | entryBad | dupCell | orderState
  | noMove | moveState | bayBusy | hatchState | countRange | craneState | moveFaulted | inFlight | noOrder | span
  | stopped | notJoined | role | laneClosed | laneFull | tagDup | order | hold | wrongLane | noTruck | badLane
  | laneState | inUse | laneLimit | gangState | wrongBay | badGang | noStop | pinActive | item | range | mapConflict
  | craneFit | stale | notPermitted
deriving DecidableEq, Repr

/-- Causes of a withdrawal (R78). -/
inductive Lapse where
  | accept | stop | truck | lane | join | leave | fault | link | cancel | reset
deriving DecidableEq, Repr

/-- The frames the LQ48 sends, with the fields their rules name (12.2). -/
inductive TxMsg where
  | joinAck
  | refuse (kind : Nat) (reason : Reason) (blocking : Nat)
  | quayStop (first : Source) (start : Word32)
  | quayResume
  | workNotice (tag : Word16) (bay : Nat) (sect : BaySection) (cls : LiftClass)
  | gantryGrant (target low high : Nat)
  | liftPermit (stamp : Word16) (move bay : Nat) (sect : BaySection) (kind : OrderKind) (cls : LiftClass)
      (row tier : Option Nat) (truck : Option TruckRef)
  | permitWithdraw (stamp : Word16) (cause : Lapse)
  | liftAbort (stamp : Word16) (kind : Nat) (reason : Reason)
  | spreaderChange (mode : SpreaderMode)
  | truckPosition (lane : Nat) (tag : Word16)
  | lashOrder (task : LashTask) (bay : Nat)
  | lashWait (bay : Nat)
  | lashCancel (task : LashTask) (bay : Nat)
  | truckCall (lane crane bay : Nat) (cls : LiftClass) (kind : OrderKind) (box partner : Option Word32)
  | truckRelease (tag : Word16) (lane : Nat) (load : LoadState) (box partner : Option Word32)
  | spotToGate (code : Byte) (lane : Nat) (tag : Word16)
deriving DecidableEq, Repr

/-- A frame in a transmit slot (R147): its link and addressed station, its failed attempts so far, and whether it
has begun transmission. -/
structure TxFrame where
  link  : Link
  dest  : Nat
  msg   : TxMsg
  fails : Nat
  begun : Bool
deriving DecidableEq, Repr

/-! ## Planner Port and Event Queue (chapter 9) -/

/-- The tables of TABLE READ (R158). -/
inductive Table where
  | berth | crane | move | lane | gang | craneLink | laneLink
deriving DecidableEq, Repr

/-- The reply buffer's content (R155): a plain reply record, or a TABLE READ reply, whose records are formed as
they are streamed (R158). -/
inductive Reply where
  | plain (code : Nat) (status : Reason) (results : List Byte)
  | table (t : Table) (first count : Nat)
deriving DecidableEq, Repr

/-- The Planner Port (R152 to R156). `sdo` and `ready` are the model's own outputs of the last selection: the bytes a
read selection sent out on SDO, and how many times READY rose. Between selections SEL is high and READY is low. -/
structure Port where
  inHand      : Bool
  reply       : Option Reply
  formatError : Bool
  guard       : Bool
  sdo         : List Byte
  ready       : Nat
deriving DecidableEq, Repr

/-- The 38 event kinds, in order of their index (R159). -/
inductive EventKind where
  | orderAccepted | orderComplete | holdPush | holdPop | stationJoin | stationLeave | bayOpen | bayLashed
  | gantryShort | orderRefused | orderStalled | truckLate | truckMisorder | noLane | laneCaution | boxMismatch
  | liftFailed | permitLapsed | lashOverdue | lashDeclined | holdStackFull | joinRefused | linkWarn | frameDropped
  | portFormat | profileItem | moveFault | craneFault | gantryOverdue | laneFault | laneFaultInLift | quayStop
  | linkSilent | linkCongested | profileFailed | quayResume | linkRejoined | moveDone
deriving DecidableEq, Repr

/-- Subject kinds of events (R159). -/
inductive Subject where
  | crane | bay | lane | gang | move | order | station | link | port | profile
deriving DecidableEq, Repr

/-- An event record (R159); the detail is the packed items before zero-filling (12.3). -/
structure Event where
  kind    : EventKind
  clock   : Word32
  subject : Subject
  number  : Nat
  detail  : List Byte
  stamp   : Option Word16
  level   : Nat
deriving DecidableEq, Repr

/-! ## Profile, loader and inputs (chapter 10) -/

inductive Stage where
  | config | run
deriving DecidableEq, Repr

/-- The loader (R164): running or stopped, attempt 1..3, 24-bit read address, records read in the attempt. -/
structure Loader where
  running : Bool
  attempt : Nat
  addr    : BitVec 24
  count   : Nat
deriving DecidableEq, Repr

/-- The levels of the input pins QSTOP and OBS1..OBS8 (true = active for OBS, in order of lane). -/
structure Pins where
  qstopHigh : Bool
  obs       : List Bool
deriving DecidableEq, Repr

/-- Everything the part holds. Keyed records stand in rising order of their key. -/
structure Quay where
  pins         : Pins
  profile      : List (Nat × Word16)
  stage        : Stage
  loader       : Loader
  clock        : Word32
  bays         : List Bay
  orders       : List Order
  assembly     : Option Assembly
  freeList     : List Nat
  moves        : List Move
  cranes       : List Crane
  grantCounter : Word16
  lanes        : List Lane
  gangs        : List Gang
  dispatch     : List Nat
  stop         : StopRecord
  craneLink    : LinkCtl
  laneLink     : LinkCtl
  pool         : List TxFrame
  port         : Port
  events       : List Event
  overflow     : Bool
  /-- Model's own (log entry 10): the crane whose JOIN is being carried out; its moves are granted nothing (R47). -/
  grantBar     : Option Nat
  /-- Model's own (log entries 6, 7): counts the uses of free values. -/
  freeCount    : Nat
deriving DecidableEq, Repr

/-- The state of the machine: what the part holds, and the commands that wait, first in first out. -/
structure State where
  quay    : Quay
  pending : List Instr
deriving DecidableEq, Repr

/-- A station table with no roles (R141, reset values). -/
def emptyStations : List Station :=
  (List.range 32).map fun n => ⟨n, none, .offline⟩

/-- A link controller after reset (R141, R144, R146). -/
def LinkCtl.reset : LinkCtl :=
  { state := .detached, score := 0, quiet := 0, complete := false, hold := false, stations := emptyStations
    ack := false, out := [] }

/-- The part after power-on or pin reset, the loader starting its first attempt (R8, R20, R22, R43, R75, R96, R119,
R132, R141, R144, R146, R148, R152, R160 to R164). -/
def Quay.reset : Quay :=
  { pins := ⟨true, List.replicate 8 false⟩
    profile := defaultProfile
    stage := .config
    loader := { running := true, attempt := 1, addr := 0, count := 0 }
    clock := 0
    bays := []
    orders := []
    assembly := none
    freeList := List.range Config.moveRecords
    moves := []
    cranes := []
    grantCounter := 0
    lanes := []
    gangs := []
    dispatch := []
    stop := { sources := [], first := none, start := none }
    craneLink := LinkCtl.reset
    laneLink := LinkCtl.reset
    pool := []
    port := { inHand := false, reply := none, formatError := false, guard := false, sdo := [], ready := 0 }
    events := []
    overflow := false
    grantBar := none
    freeCount := 0 }

/-- The machine right after reset: the part as the spec says, no command waiting. -/
def State.reset : State :=
  { quay := Quay.reset, pending := [] }

end Sys2Proof.Machine
end

