-- ==== Sys2Proof/Machine/Formats.lean ====
section
/-!
DEFINITION. The byte formats of spec/12_formats.md: byte order, codes of enumerated fields and refusal reasons,
frame kinds, the payloads of the frames the LQ48 sends, the CRC, event records. Codings that chapter 12 leaves to
its conventions are named in log entry 22.
-/

namespace Sys2Proof.Machine

/-! ## Bytes -/

/-- A number in one byte. -/
def byte (n : Nat) : Byte := BitVec.ofNat 8 n

/-- Two bytes, high byte first (chapter 12, first paragraph). -/
def be16 (w : Word16) : List Byte := [w.extractLsb' 8 8, w.extractLsb' 0 8]

/-- A number in two bytes, high byte first. -/
def be16n (n : Nat) : List Byte := be16 (BitVec.ofNat 16 n)

/-- Four bytes, high byte first. -/
def be32 (w : Word32) : List Byte :=
  [w.extractLsb' 24 8, w.extractLsb' 16 8, w.extractLsb' 8 8, w.extractLsb' 0 8]

/-- The 16-bit word of two bytes, high byte first. -/
def word16 (h l : Byte) : Word16 := h ++ l

/-- The 32-bit word of four bytes, high byte first. -/
def word32 (a b c d : Byte) : Word32 := a ++ b ++ c ++ d

/-- A flag as bit `k` of a byte. -/
def bitAt (k : Nat) (b : Bool) : Nat := if b then 2 ^ k else 0

/-- On/off in one byte (12.1). -/
def onOff (b : Bool) : Byte := byte (bitAt 0 b)

/-- An absent optional field goes as zeros of its width (12.1). -/
def optByte (x : Option Nat) : List Byte := [byte (x.getD 0)]
def opt16 (x : Option Word16) : List Byte := be16 (x.getD 0)
def opt32 (x : Option Word32) : List Byte := be32 (x.getD 0)

/-! ## Codes of enumerated fields: from 0 in the order of the defining table (12.1) -/

def Hatch.code : Hatch → Nat
  | .on => 0 | .off => 1

def Lash.code : Lash → Nat
  | .lashed => 0 | .unlashDue => 1 | .unlashing => 2 | .opened => 3 | .lashDue => 4 | .lashing => 5

def OrderKind.code : OrderKind → Nat
  | .discharge => 0 | .load => 1 | .hatchOff => 2 | .hatchOn => 3

def OrderKind.ofCode : Nat → Option OrderKind
  | 0 => some .discharge | 1 => some .load | 2 => some .hatchOff | 3 => some .hatchOn | _ => none

def BaySection.code : BaySection → Nat
  | .deck => 0 | .hold => 1

def BaySection.ofCode : Nat → Option BaySection
  | 0 => some .deck | 1 => some .hold | _ => none

def LiftClass.code : LiftClass → Nat
  | .single20 => 0 | .single40 => 1 | .twin20 => 2 | .cover => 3

def LiftClass.ofCode : Nat → Option LiftClass
  | 0 => some .single20 | 1 => some .single40 | 2 => some .twin20 | 3 => some .cover | _ => none

def MoveState.code : MoveState → Nat
  | .deferred => 0 | .queued => 1 | .staged => 2 | .matched => 3 | .permitted => 4 | .lifting => 5 | .faulted => 6

def StationState.code : StationState → Nat
  | .offline => 0 | .online => 1 | .lost => 2

def CraneState.code : CraneState → Nat
  | .offline => 0 | .idle => 1 | .positioning => 2 | .working => 3 | .fault => 4

/-- As in the JOIN payload (12.2). -/
def SpreaderMode.code : SpreaderMode → Nat
  | .unknown => 0 | .single => 1 | .twin => 2

def SpreaderMode.ofCode : Nat → Option SpreaderMode
  | 0 => some .unknown | 1 => some .single | 2 => some .twin | _ => none

def LaneState.code : LaneState → Nat
  | .disabled => 0 | .closed => 1 | .opening => 2 | .opened => 3 | .caution => 4 | .faulted => 5

def LoadState.code : LoadState → Nat
  | .empty => 0 | .laden => 1

def TruckCapacity.code : TruckCapacity → Nat
  | .c20 => 0 | .c40 => 1

def Qualifier.code : Qualifier → Nat
  | .idle => 0 | .timing => 1

def GangState.code : GangState → Nat
  | .idle => 0 | .ordered => 1 | .working => 2

def LashTask.code : LashTask → Nat
  | .unlash => 0 | .lash => 1

/-- As in the JOIN payload (12.2): 1 CRANE, 2 GANG, 3 GATE. -/
def Role.code : Role → Nat
  | .crane => 1 | .gang => 2 | .gate => 3

def Role.ofCode : Nat → Option Role
  | 1 => some .crane | 2 => some .gang | 3 => some .gate | _ => none

def LinkState.code : LinkState → Nat
  | .detached => 0 | .rejoin => 1 | .active => 2 | .warn => 3 | .silent => 4

/-- Link numbers: 1 the crane link, 2 the lane link (R144). -/
def linkNumber : Link → Nat
  | .crane => 1 | .lane => 2

def linkOfNumber : Nat → Option Link
  | 1 => some .crane | 2 => some .lane | _ => none

def Lapse.code : Lapse → Nat
  | .accept => 0 | .stop => 1 | .truck => 2 | .lane => 3 | .join => 4 | .leave => 5 | .fault => 6 | .link => 7
  | .cancel => 8 | .reset => 9

def Table.ofCode : Nat → Option Table
  | 0 => some .berth | 1 => some .crane | 2 => some .move | 3 => some .lane | 4 => some .gang
  | 5 => some .craneLink | 6 => some .laneLink | _ => none

/-- Source codes of 12.1. -/
def Source.code : Source → Nat
  | .pin => 0 | .planner => 1 | .crane n => 1 + n | .gang g => 7 + g

/-- A set of sources in two bytes: bit k for the source of code k (12.1). -/
def sourceSet (l : List Source) : List Byte :=
  be16n ((l.map fun x => 2 ^ x.code).sum)

def Timer.code : Timer → Nat
  | .stopped => 0 | .running _ => 1 | .held _ => 2

/-- The remaining time a timer holds; a stopped timer has none and shows 0. -/
def Timer.left : Timer → Nat
  | .stopped => 0 | .running n => n | .held n => n

def Subject.code : Subject → Nat
  | .crane => 0 | .bay => 1 | .lane => 2 | .gang => 3 | .move => 4 | .order => 5 | .station => 6 | .link => 7
  | .port => 8 | .profile => 9

/-- Indexes of the event kinds (R159). -/
def EventKind.index : EventKind → Nat
  | .orderAccepted => 0 | .orderComplete => 1 | .holdPush => 2 | .holdPop => 3 | .stationJoin => 4
  | .stationLeave => 5 | .bayOpen => 6 | .bayLashed => 7 | .gantryShort => 8 | .orderRefused => 9
  | .orderStalled => 10 | .truckLate => 11 | .truckMisorder => 12 | .noLane => 13 | .laneCaution => 14
  | .boxMismatch => 15 | .liftFailed => 16 | .permitLapsed => 17 | .lashOverdue => 18 | .lashDeclined => 19
  | .holdStackFull => 20 | .joinRefused => 21 | .linkWarn => 22 | .frameDropped => 23 | .portFormat => 24
  | .profileItem => 25 | .moveFault => 26 | .craneFault => 27 | .gantryOverdue => 28 | .laneFault => 29
  | .laneFaultInLift => 30 | .quayStop => 31 | .linkSilent => 32 | .linkCongested => 33 | .profileFailed => 34
  | .quayResume => 35 | .linkRejoined => 36 | .moveDone => 37

/-- Codes of the refusal reasons (12.1). -/
def Reason.code : Reason → Nat
  | .ok => 0x00 | .badRequest => 0x01 | .busy => 0x02 | .stage => 0x03 | .badValue => 0x04
  | .assemblyBusy => 0x05 | .tagInUse => 0x06 | .badCrane => 0x07 | .badBay => 0x08 | .groupEmpty => 0x09
  | .badClass => 0x0A | .tooLong => 0x0B | .orderTableFull => 0x0C | .craneListFull => 0x0C | .storeFull => 0x0C
  | .lateEnd => 0x0D | .earlyEnd => 0x0E | .entryBad => 0x0F | .dupCell => 0x10 | .orderState => 0x11
  | .noMove => 0x12 | .moveState => 0x13 | .bayBusy => 0x14 | .hatchState => 0x15 | .countRange => 0x16
  | .craneState => 0x17 | .moveFaulted => 0x18 | .inFlight => 0x19 | .noOrder => 0x1A | .span => 0x1B
  | .stopped => 0x1C | .notJoined => 0x1D | .role => 0x1E | .laneClosed => 0x1F | .laneFull => 0x20
  | .tagDup => 0x21 | .order => 0x22 | .hold => 0x23 | .wrongLane => 0x24 | .noTruck => 0x25 | .badLane => 0x26
  | .laneState => 0x27 | .inUse => 0x27 | .laneLimit => 0x28 | .gangState => 0x29 | .wrongBay => 0x2A
  | .badGang => 0x2B | .noStop => 0x2C | .pinActive => 0x2D | .item => 0x2E | .range => 0x2F
  | .mapConflict => 0x30 | .craneFit => 0x31 | .stale => 0x32 | .notPermitted => 0x33

/-- The result byte that tells apart reasons sharing a code (12.1); no result for any other reason. -/
def Reason.resultByte : Reason → List Byte
  | .orderTableFull => [0] | .craneListFull => [1] | .storeFull => [2]
  | .laneState => [0] | .inUse => [1]
  | _ => []

/-! ## Kinds of frames sent by stations (12.2) -/

namespace RxKind

def join : Nat := 0x01
def leave : Nat := 0x02
def stop : Nat := 0x03
def gantryReq : Nat := 0x10
def arrived : Nat := 0x11
def spreaderSet : Nat := 0x12
def liftStart : Nat := 0x13
def liftDone : Nat := 0x14
def liftFail : Nat := 0x15
def spot : Nat := 0x16
def lashStart : Nat := 0x20
def lashDone : Nat := 0x21
def lashDecline : Nat := 0x22
def truckEnter : Nat := 0x30
def truckSet : Nat := 0x31
def truckExit : Nat := 0x32

end RxKind

/-- The kinds taken from stations on a link (R140, 12.2). -/
def linkTakes (l : Link) (kind : Nat) : Bool :=
  match l with
  | .crane => (0x01 ≤ kind && kind ≤ 0x03) || (0x10 ≤ kind && kind ≤ 0x16) || (0x20 ≤ kind && kind ≤ 0x22)
  | .lane => (0x01 ≤ kind && kind ≤ 0x03) || (0x30 ≤ kind && kind ≤ 0x32)

/-- The kinds a role sends (R141, step 3; the frame tables of the introduction). -/
def Role.sends (r : Role) (kind : Nat) : Bool :=
  match r with
  | .crane => (0x01 ≤ kind && kind ≤ 0x03) || (0x10 ≤ kind && kind ≤ 0x16)
  | .gang => (0x01 ≤ kind && kind ≤ 0x03) || (0x20 ≤ kind && kind ≤ 0x22)
  | .gate => kind == 0x01 || kind == 0x02 || (0x30 ≤ kind && kind ≤ 0x32)

/-! ## Frames sent by the LQ48 (12.2) -/

/-- The kind code of a sent frame. -/
def TxMsg.kind : TxMsg → Nat
  | .joinAck => 0x41
  | .refuse .. => 0x42
  | .quayStop .. => 0x43
  | .quayResume => 0x44
  | .workNotice .. => 0x50
  | .gantryGrant .. => 0x51
  | .liftPermit .. => 0x52
  | .permitWithdraw .. => 0x53
  | .liftAbort .. => 0x54
  | .spreaderChange .. => 0x55
  | .truckPosition .. => 0x56
  | .lashOrder .. => 0x60
  | .lashWait .. => 0x61
  | .lashCancel .. => 0x62
  | .truckCall .. => 0x70
  | .truckRelease .. => 0x71
  | .spotToGate .. => 0x72

/-- Urgent frames (introduction, Frame classes); all others are routine. -/
def TxMsg.urgent : TxMsg → Bool
  | .permitWithdraw .. | .liftAbort .. | .quayStop .. | .quayResume | .truckRelease .. => true
  | _ => false

/-- The payload of a sent frame (12.2). -/
def TxMsg.payload : TxMsg → List Byte
  | .joinAck => []
  | .refuse kind reason blocking => [byte kind, byte reason.code, byte blocking]
  | .quayStop first start => [byte first.code] ++ be32 start
  | .quayResume => []
  | .workNotice tag bay sect cls => be16 tag ++ [byte bay, byte sect.code, byte cls.code]
  | .gantryGrant target low high => [byte target, byte low, byte high]
  | .liftPermit stamp move bay sect kind cls row tier truck =>
    be16 stamp ++ be16n move ++ [byte bay, byte (cls.code + 4 * kind.code + 16 * sect.code)] ++
      (match truck with
       | none => []
       | some t => optByte row ++ optByte tier ++ [byte t.lane] ++ be16 t.tag)
  | .permitWithdraw stamp cause => be16 stamp ++ [byte cause.code]
  | .liftAbort stamp kind reason => be16 stamp ++ [byte kind, byte reason.code]
  | .spreaderChange mode => [byte mode.code]
  | .truckPosition lane tag => [byte lane] ++ be16 tag
  | .lashOrder task bay => [byte task.code, byte bay]
  | .lashWait bay => [byte bay]
  | .lashCancel task bay => [byte task.code, byte bay]
  | .truckCall lane crane bay cls kind box partner =>
    [byte lane, byte crane, byte bay,
     byte (cls.code + bitAt 2 box.isSome + bitAt 3 partner.isSome + bitAt 4 (kind = .load))] ++
      opt32 box ++ opt32 partner
  | .truckRelease tag lane load box partner =>
    be16 tag ++ [byte lane, byte (load.code + bitAt 2 box.isSome + bitAt 3 partner.isSome)] ++
      opt32 box ++ opt32 partner
  | .spotToGate code lane tag => [code, byte lane] ++ be16 tag

/-- One bit of the CRC-16 of 12.2: generator 1021h, most significant bit first. -/
def crcBit (crc : Word16) : Word16 :=
  if crc.msb then (crc <<< 1) ^^^ 0x1021#16 else crc <<< 1

/-- `n` bits of the CRC. -/
def crcBits : Nat → Word16 → Word16
  | 0, crc => crc
  | n + 1, crc => crcBits n (crcBit crc)

/-- The CRC-16 over a list of bytes, initial value FFFFh, no reflection, no final XOR (12.2). -/
def crc16 (l : List Byte) : Word16 :=
  l.foldl (fun crc b => crcBits 8 (crc ^^^ (word16 b 0))) 0xFFFF#16

/-- The bytes of a sent frame on the wire; the LQ48 is station 0 (12.2). -/
def TxFrame.wire (f : TxFrame) : List Byte :=
  let body := [byte f.dest, 0, byte f.msg.kind, byte f.msg.payload.length] ++ f.msg.payload
  body ++ be16 (crc16 body)

/-- The station number in a station byte; its bits 7..5 are reserved and ignored (12.2, R168). -/
def stationNumber (b : Byte) : Nat := b.toNat % 32

/-- A received byte sequence is a malformed frame on a link (R140): its CRC does not agree, its length is above
12 or not that of its payload, its sender is 0 or 31, or its kind is not taken on the link. -/
def malformedOn (l : Link) (raw : List Byte) : Bool :=
  match raw with
  | _ :: src :: kind :: len :: rest =>
    let n := len.toNat
    let body := raw.take (4 + n)
    decide (n > 12) || decide (rest.length ≠ n + 2) || decide (rest.drop n ≠ be16 (crc16 body)) ||
      decide (stationNumber src = 0 ∨ stationNumber src = 31) || !linkTakes l kind.toNat
  | _ => true

/-! ## Event records (12.3) -/

/-- A list cut or zero-filled to `n` bytes. -/
def fillTo (n : Nat) (l : List Byte) : List Byte :=
  (l ++ List.replicate n 0).take n

/-- The 16 bytes of an event record (12.3). -/
def Event.bytes (e : Event) : List Byte :=
  [byte e.kind.index, byte e.level] ++ be32 e.clock ++ [byte e.subject.code] ++ be16n e.number ++
    fillTo 4 e.detail ++ [byte (bitAt 0 e.stamp.isSome)] ++ opt16 e.stamp

end Sys2Proof.Machine
end

