-- ==== Sys2Proof/Machine/Ops.lean ====
section
/-!
DEFINITION. The shared operations: one home for every read and write of a record, sorted insertion, timers, the
posting of events (R159, R160), slot claims and the queueing of frames (R147 to R150), and the small reads of other
blocks' state that the rules name (stop in force, station states, live moves of an order or bay).
-/

namespace Sys2Proof.Machine

/-! ## Lists -/

/-- Insert before the first element that `le` does not put ahead of `x`. -/
def insertBy {α : Type} (le : α → α → Bool) (x : α) : List α → List α
  | [] => [x]
  | y :: ys => if le x y then x :: y :: ys else y :: insertBy le x ys

/-- A list sorted by `le`, equal elements in their old order. -/
def sortBy {α : Type} (le : α → α → Bool) : List α → List α
  | [] => []
  | x :: xs => insertBy le x (sortBy le xs)

/-- Take the last element that satisfies `p` out of a list. -/
def takeLast {α : Type} (p : α → Bool) : List α → Option (α × List α)
  | [] => none
  | x :: xs =>
    match takeLast p xs with
    | some (v, rest) => some (v, x :: rest)
    | none => if p x then some (x, xs) else none

/-- Bring a numbered list of things to bear on a state, in order. -/
def forEach {α σ : Type} (f : α → σ → σ) : List α → σ → σ
  | [], s => s
  | x :: xs, s => forEach f xs (f x s)

/-! ## Timers -/

/-- A held timer keeps its remaining time; at QUAY RESUME it runs on (R135). -/
def Timer.hold : Timer → Timer
  | .running n => .held n
  | t => t

def Timer.resume : Timer → Timer
  | .held n => .running n
  | t => t

/-- One second of a running timer (log entry 8). -/
def Timer.tick : Timer → Timer
  | .running n => .running (n - 1)
  | t => t

def Timer.isRunning : Timer → Bool
  | .running _ => true
  | _ => false

namespace Quay

/-! ## Profile (R162) -/

/-- The value of a profile item. -/
def itemWord (q : Quay) (no : Nat) : Word16 :=
  ((q.profile.find? fun x => x.1 = no).map (·.2)).getD 0

def item (q : Quay) (no : Nat) : Nat := (q.itemWord no).toNat

def setItem (q : Quay) (no : Nat) (v : Word16) : Quay :=
  { q with profile := q.profile.map fun x => if x.1 = no then (x.1, v) else x }

/-! ## Writes of one part -/

def updPins (q : Quay) (f : Pins → Pins) : Quay := { q with pins := f q.pins }

def setProfile (q : Quay) (p : List (Nat × Word16)) : Quay := { q with profile := p }

def setStage (q : Quay) (s : Stage) : Quay := { q with stage := s }

def updLoader (q : Quay) (f : Loader → Loader) : Quay := { q with loader := f q.loader }

def setAssembly (q : Quay) (a : Option Assembly) : Quay := { q with assembly := a }

def setFreeList (q : Quay) (l : List Nat) : Quay := { q with freeList := l }

def setCounter (q : Quay) (w : Word16) : Quay := { q with grantCounter := w }

def setDispatch (q : Quay) (l : List Nat) : Quay := { q with dispatch := l }

def setStop (q : Quay) (r : StopRecord) : Quay := { q with stop := r }

def setPool (q : Quay) (l : List TxFrame) : Quay := { q with pool := l }

def updPort (q : Quay) (f : Port → Port) : Quay := { q with port := f q.port }

def setBar (q : Quay) (c : Option Nat) : Quay := { q with grantBar := c }

/-! ## Records by key -/

def bay? (q : Quay) (b : Nat) : Option Bay := q.bays.find? fun x => x.num = b

def updBay (q : Quay) (b : Nat) (f : Bay → Bay) : Quay :=
  { q with bays := q.bays.map fun x => if x.num = b then f x else x }

def order? (q : Quay) (slot : Nat) : Option Order := q.orders.find? fun x => x.slot = slot

def orderByTag? (q : Quay) (tag : Word16) : Option Order := q.orders.find? fun x => x.tag = tag

def updOrder (q : Quay) (slot : Nat) (f : Order → Order) : Quay :=
  { q with orders := q.orders.map fun x => if x.slot = slot then f x else x }

def addOrder (q : Quay) (o : Order) : Quay :=
  { q with orders := insertBy (fun a b => a.slot ≤ b.slot) o q.orders }

def dropOrder (q : Quay) (slot : Nat) : Quay :=
  { q with orders := q.orders.filter fun x => x.slot ≠ slot }

def move? (q : Quay) (n : Nat) : Option Move := q.moves.find? fun x => x.num = n

def updMove (q : Quay) (n : Nat) (f : Move → Move) : Quay :=
  { q with moves := q.moves.map fun x => if x.num = n then f x else x }

def addMove (q : Quay) (m : Move) : Quay :=
  { q with moves := insertBy (fun a b => a.num ≤ b.num) m q.moves }

/-- A move's record returns to the tail of the free list (R22). -/
def freeMove (q : Quay) (n : Nat) : Quay :=
  { q with moves := q.moves.filter (fun x => x.num ≠ n), freeList := q.freeList ++ [n] }

def crane? (q : Quay) (c : Nat) : Option Crane := q.cranes.find? fun x => x.num = c

def updCrane (q : Quay) (c : Nat) (f : Crane → Crane) : Quay :=
  { q with cranes := q.cranes.map fun x => if x.num = c then f x else x }

/-- The crane numbers in rising order. -/
def craneNums (q : Quay) : List Nat := q.cranes.map (·.num)

def lane? (q : Quay) (p : Nat) : Option Lane := q.lanes.find? fun x => x.phys = p

/-- The lane that carries a logical number; 0 names no lane (R94). -/
def laneByLogical? (q : Quay) (n : Nat) : Option Lane :=
  if n = 0 then none else q.lanes.find? fun x => x.logical = n

def updLane (q : Quay) (p : Nat) (f : Lane → Lane) : Quay :=
  { q with lanes := q.lanes.map fun x => if x.phys = p then f x else x }

/-- Write the truck of a tag in every FIFO; a tag stands in at most one (R102). -/
def updTruck (q : Quay) (tag : Word16) (f : Truck → Truck) : Quay :=
  { q with lanes := q.lanes.map fun l => { l with fifo := l.fifo.map fun t => if t.tag = tag then f t else t } }

/-- The lane whose FIFO holds a truck tag. -/
def laneOfTag? (q : Quay) (tag : Word16) : Option Lane :=
  q.lanes.find? fun l => l.fifo.any fun t => t.tag = tag

def gang? (q : Quay) (g : Nat) : Option Gang := q.gangs.find? fun x => x.num = g

def updGang (q : Quay) (g : Nat) (f : Gang → Gang) : Quay :=
  { q with gangs := q.gangs.map fun x => if x.num = g then f x else x }

def link (q : Quay) : Link → LinkCtl
  | .crane => q.craneLink
  | .lane => q.laneLink

def updLink (q : Quay) (l : Link) (f : LinkCtl → LinkCtl) : Quay :=
  match l with
  | .crane => { q with craneLink := f q.craneLink }
  | .lane => { q with laneLink := f q.laneLink }

/-- The station table's entry of a station number (R141). -/
def station (q : Quay) (l : Link) (n : Nat) : Station :=
  ((q.link l).stations.find? fun x => x.num = n).getD ⟨n, none, .offline⟩

def setStation (q : Quay) (l : Link) (n : Nat) (st : StationState) : Quay :=
  q.updLink l fun k => { k with stations := k.stations.map fun x => if x.num = n then { x with state := st } else x }

/-! ## Reads of other blocks' state -/

/-- The crane link station of crane n is station n (introduction, Stations). -/
def craneOnline (q : Quay) (c : Nat) : Bool := decide ((q.station .crane c).state = .online)

/-- Gang g is station 16 + g. -/
def gangStation (g : Nat) : Nat := 16 + g

def gangOnline (q : Quay) (g : Nat) : Bool := decide ((q.station .crane (gangStation g)).state = .online)

/-- The gate of physical lane p is station p of the lane link (R106). -/
def gateOnline (q : Quay) (p : Nat) : Bool := decide ((q.station .lane p).state = .online)

/-- A quay stop is in force exactly while the set of active sources is not empty (R132). -/
def stopInForce (q : Quay) : Bool := !q.stop.sources.isEmpty

/-- The live moves of an order. -/
def movesOf (q : Quay) (slot : Nat) : List Move := q.moves.filter fun m => m.order = slot

/-- Live moves of a bay in one section (R6). -/
def liveMoves (q : Quay) (b : Nat) (sec : BaySection) : Nat :=
  (q.moves.filter fun m => m.bay = b ∧ m.sect = sec).length

end Quay

/-- A hatch move or order (R21). -/
def OrderKind.isHatch : OrderKind → Bool
  | .hatchOff | .hatchOn => true
  | _ => false

def Move.isHatch (m : Move) : Bool := m.kind.isHatch

/-- A move in flight is PERMITTED or LIFTING (R6). -/
def Move.inFlight (m : Move) : Bool := decide (m.state = .permitted ∨ m.state = .lifting)

/-- The box count of a move (R2). -/
def LiftClass.boxes : LiftClass → Nat
  | .single20 => 1 | .single40 => 1 | .twin20 => 2 | .cover => 0

/-- Keep, of two moves, the one of lower issue position. -/
def lowerPos (best : Option Move) (m : Move) : Option Move :=
  match best with
  | none => some m
  | some b => if m.pos < b.pos then some m else some b

/-- The move of lowest issue position of a list. -/
def lowestPos (l : List Move) : Option Move := l.foldl lowerPos none

namespace Quay

/-- The in-flight move of a bay (R6). -/
def inFlightMove? (q : Quay) (b : Nat) : Option Move := q.moves.find? fun m => m.bay = b ∧ m.inFlight

/-- The crane whose span contains a bay (R5). -/
def claim? (q : Quay) (b : Nat) : Option Crane :=
  q.cranes.find? fun c =>
    match c.span with
    | some sp => sp.low ≤ b && b ≤ sp.high
    | none => false

/-- The crane's current move. -/
def currentMove? (q : Quay) (c : Nat) : Option Move := ((q.crane? c).bind (·.current)).bind q.move?

/-- The crane's active order (ACTIVE or CANCELLING). -/
def activeOrder? (q : Quay) (c : Nat) : Option Order := ((q.crane? c).bind (·.active)).bind q.order?

/-- An order holds a move in PERMITTED, LIFTING or FAULTED (R61, R62). -/
def blocked (q : Quay) (slot : Nat) : Bool :=
  (q.movesOf slot).any fun m => m.inFlight || m.state = .faulted

end Quay

/-! ## Events (R159, R160) -/

/-- What a block posts: kind, subject, detail and, where the rule gives one, a grant stamp. -/
structure Posting where
  kind    : EventKind
  subject : Subject
  number  : Nat
  detail  : List Byte := []
  stamp   : Option Word16 := none
deriving DecidableEq, Repr

namespace Quay

/-- The report level of a kind as it stands now (R159). -/
def level (q : Quay) (k : EventKind) : Nat := q.item (Item.level k.index)

/-- The record a posting makes. -/
def eventOf (q : Quay) (p : Posting) : Event :=
  { kind := p.kind, clock := q.clock, subject := p.subject, number := p.number, detail := p.detail
    stamp := p.stamp, level := q.level p.kind }

/-- Post an event: level 0 is discarded, a full queue loses the record and sets the overflow mark (R159, R160). -/
def post (q : Quay) (p : Posting) : Quay :=
  { q with
    events :=
      if q.level p.kind = 0 then q.events
      else if q.events.length < Config.eventRecords then q.events ++ [q.eventOf p] else q.events
    overflow :=
      if q.level p.kind = 0 then q.overflow
      else if q.events.length < Config.eventRecords then q.overflow else true }

/-! ## The Frame Slot Pool and the transmit queues (R147 to R150) -/

end Quay

/-- A link in ACTIVE or WARN sends and takes frames (R144). -/
def LinkState.carries : LinkState → Bool
  | .active | .warn => true
  | _ => false

namespace Quay

def linkCarries (q : Quay) (l : Link) : Bool := (q.link l).state.carries

/-- Routine frames queued on one link. -/
def routineOn (q : Quay) (l : Link) : Nat := (q.pool.filter fun f => f.link = l ∧ f.msg.urgent = false).length

/-- Routine frames queued on both links. -/
def routineAll (q : Quay) : Nat := (q.pool.filter fun f => f.msg.urgent = false).length

def freeSlots (q : Quay) : Nat := Config.slots - q.pool.length

/-- The pool gives a slot for a routine frame on a link (R148). -/
def routineSlot (q : Quay) (l : Link) : Bool :=
  q.linkCarries l && decide (q.routineOn l < q.item Item.txCap) && decide (q.routineAll < Config.routineLimit) &&
    decide (q.pool.length < Config.slots)

/-- Put a frame in a slot, youngest of all. -/
def enqueue (q : Quay) (l : Link) (dest : Nat) (msg : TxMsg) : Quay :=
  { q with pool := q.pool ++ [{ link := l, dest := dest, msg := msg, fails := 0, begun := false }] }

end Quay

/-- Reasons of FRAME_DROPPED (R147, 12.3). -/
inductive DropReason where
  | retries | noSlot | displaced | silent
deriving DecidableEq, Repr

def DropReason.code : DropReason → Nat
  | .retries => 0 | .noSlot => 1 | .displaced => 2 | .silent => 3

/-- FRAME_DROPPED for a frame of a link (R147). -/
def frameDropped (l : Link) (why : DropReason) (dest : Nat) (msg : TxMsg) : Posting :=
  { kind := .frameDropped, subject := .link, number := linkNumber l
    detail := [byte why.code, byte msg.kind, byte dest] }

/-- LINK_CONGESTED for a refused urgent claim (R149). -/
def linkCongested (l : Link) (dest : Nat) (msg : TxMsg) : Posting :=
  { kind := .linkCongested, subject := .link, number := linkNumber l, detail := [byte msg.kind, byte dest] }

namespace Quay

/-- A routine frame whose change stands without it: queued, or dropped with reason NO_SLOT (R150). -/
def sendRoutine (q : Quay) (l : Link) (dest : Nat) (msg : TxMsg) : Quay :=
  if q.routineSlot l then q.enqueue l dest msg else q.post (frameDropped l .noSlot dest msg)

/-- A frame that an urgent claim may displace: routine, not begun (R149). -/
def displaceable (f : TxFrame) : Bool := !f.msg.urgent && !f.begun

/-- An urgent frame: not queued on a link that cannot carry it; in a free slot; else in the slot of the youngest
displaceable frame of either link; else discarded with LINK_CONGESTED (R148, R149). -/
def sendUrgent (q : Quay) (l : Link) (dest : Nat) (msg : TxMsg) : Quay :=
  if !q.linkCarries l then q
  else if q.pool.length < Config.slots then q.enqueue l dest msg
  else
    match takeLast displaceable q.pool with
    | some (v, rest) => ((q.setPool rest).post (frameDropped v.link .displaced v.dest v.msg)).enqueue l dest msg
    | none => q.post (linkCongested l dest msg)

/-- Routine frames for a crane are sent only to an ONLINE station. -/
def sendCrane (q : Quay) (c : Nat) (msg : TxMsg) : Quay :=
  if q.craneOnline c then q.sendRoutine .crane c msg else q

/-- REFUSE to the sending station (R141). -/
def refuseFrame (q : Quay) (l : Link) (src kind : Nat) (why : Reason) (blocking : Nat := 0) : Quay :=
  q.sendRoutine l src (.refuse kind why blocking)

/-- A link's transmit queue in the order of sending: the frame that has begun, urgent frames, routine frames,
each oldest first (R147). -/
def queueOf (q : Quay) (l : Link) : List TxFrame :=
  let mine := q.pool.filter fun f => f.link = l
  mine.filter (fun f => f.begun) ++ mine.filter (fun f => !f.begun && f.msg.urgent) ++
    mine.filter (fun f => !f.begun && !f.msg.urgent)

/-- Count one use of a free value. -/
def countFree (q : Quay) : Quay := { q with freeCount := q.freeCount + 1 }

end Quay

end Sys2Proof.Machine
end

