-- ==== Sys2Proof/Machine/Flags.lean ====
section
/-!
DEFINITION. Every status flag and output the spec computes: the status byte of the Planner Port (R156, 12.3), ATTN
and ALERT (R139, R161).
-/

namespace Sys2Proof.Machine.Quay

/-- Stage bits of the status byte: 0 LOADING while the loader runs, else 1 CONFIG or 2 RUN (R156, 12.3). -/
def stageBits (q : Quay) : Nat :=
  if q.loader.running then 0
  else match q.stage with
    | .config => 1
    | .run => 2

/-- The status byte as it stands (R156, 12.3). -/
def statusByte (q : Quay) : Byte :=
  byte (bitAt 0 q.port.reply.isSome + bitAt 1 q.port.inHand + bitAt 2 (!q.events.isEmpty) + bitAt 3 q.overflow +
    bitAt 4 q.port.formatError + 32 * q.stageBits)

/-- ATTN: the queue holds a record of level 2 or 3 (R161). -/
def attn (q : Quay) : Bool := q.events.any fun e => 2 ≤ e.level

/-- ALERT: the queue holds a record of level 3, or a quay stop is in force (R139, R161). -/
def alert (q : Quay) : Bool := q.stopInForce || q.events.any fun e => e.level = 3

end Sys2Proof.Machine.Quay
end

