-- ==== Sys2Proof/Machine/Operands.lean ====
section
/-!
DEFINITION. Every operand form: the operands of each request (12.3, R169), the payload of each station frame (12.2,
R168), the header of a profile record (12.4). A reader answers none where the bytes are shorter than the form.
-/

namespace Sys2Proof.Machine

/-! ## Request records (R169) -/

/-- The operands of a request record, from the bytes after the request code: refused with BAD_REQUEST where the
record passes the 448 bytes the port holds, where no whole operand length was written (log entry 24), or where
fewer bytes follow than the length states; bytes beyond the stated length are ignored. -/
def recordOperands (record : List Byte) : Except Reason (List Byte) :=
  if record.length + 1 > Config.portBytes then .error .badRequest
  else
    match record with
    | h :: l :: body =>
      let n := (word16 h l).toNat
      if body.length < n then .error .badRequest else .ok (body.take n)
    | _ => .error .badRequest

/-- An optional box by its presence bit; a box not present is ignored (R168). -/
def boxIf (flags : Byte) (bit : Nat) (w : Word32) : Option Word32 :=
  if flags.getLsbD bit then some w else none

/-- Item number (R163). -/
def ops16 : List Byte → Option Nat
  | a :: b :: _ => some (word16 a b).toNat
  | _ => none

def opsTag : List Byte → Option Word16
  | a :: b :: _ => some (word16 a b)
  | _ => none

def ops8 : List Byte → Option Nat
  | a :: _ => some a.toNat
  | _ => none

def ops8x2 : List Byte → Option (Nat × Nat)
  | a :: b :: _ => some (a.toNat, b.toNat)
  | _ => none

/-- PROFILE WRITE: item number and value (R163). -/
def ops16x2 : List Byte → Option (Nat × Word16)
  | a :: b :: c :: d :: _ => some ((word16 a b).toNat, word16 c d)
  | _ => none

/-- MOVE CLEAR: move number and outcome (R89). -/
def opsMoveClear : List Byte → Option (Nat × Nat)
  | a :: b :: c :: _ => some ((word16 a b).toNat, c.toNat)
  | _ => none

/-- TABLE READ: table, first index in two bytes, count (R158, 12.3). -/
def opsTableRead : List Byte → Option (Nat × Nat × Nat)
  | t :: a :: b :: n :: _ => some (t.toNat, (word16 a b).toNat, n.toNat)
  | _ => none

/-- BERTH LOAD's seven fields as sent (R15). -/
structure BerthLoadOps where
  bay       : Nat
  deckCount : Nat
  holdCount : Nat
  deckCap   : Nat
  holdCap   : Nat
  hatch     : Nat
  lash      : Nat
deriving DecidableEq, Repr

def opsBerthLoad : List Byte → Option BerthLoadOps
  | a :: b :: c :: d :: e :: f :: g :: _ =>
    some ⟨a.toNat, b.toNat, c.toNat, d.toNat, e.toNat, f.toNat, g.toNat⟩
  | _ => none

/-- The ORDER OPEN header as sent (12.3): codes not yet judged; three group slots of class and count. -/
structure OrderHeader where
  tag        : Word16
  kind       : Nat
  crane      : Nat
  bay        : Nat
  sect       : Nat
  rowCount   : Nat
  startRow   : Nat
  ordering   : SweepOrdering
  priority   : Priority
  groupCount : Nat
  groups     : List (Nat × Nat)
deriving DecidableEq, Repr

def opsOrderOpen : List Byte → Option OrderHeader
  | t1 :: t0 :: k :: c :: b :: s :: rc :: sr :: fl :: gc :: c1 :: n1 :: c2 :: n2 :: c3 :: n3 :: _ =>
    some
      { tag := word16 t1 t0, kind := k.toNat, crane := c.toNat, bay := b.toNat, sect := s.toNat
        rowCount := rc.toNat, startRow := sr.toNat
        ordering := if fl.getLsbD 0 then .flex else .strict
        priority := if fl.getLsbD 1 then .urgent else .normal
        groupCount := gc.toNat
        groups := [(c1.toNat, n1.toNat), (c2.toNat, n2.toNat), (c3.toNat, n3.toNat)] }
  | _ => none

/-- One entry of 11 bytes (12.3). -/
def readEntry (r t f b3 b2 b1 b0 p3 p2 p1 p0 : Byte) : Entry :=
  { row := r.toNat, tier := t.toNat
    box := boxIf f 0 (word32 b3 b2 b1 b0), partner := boxIf f 1 (word32 p3 p2 p1 p0), heldBack := f.getLsbD 2 }

/-- The entries of a list of bytes, 11 bytes each. -/
def readEntries : List Byte → List Entry
  | r :: t :: f :: b3 :: b2 :: b1 :: b0 :: p3 :: p2 :: p1 :: p0 :: rest =>
    readEntry r t f b3 b2 b1 b0 p3 p2 p1 p0 :: readEntries rest
  | _ => []

/-- ORDER ENTRIES: tag, entry count, entries; none unless the operands are exactly 3 plus 11 times the count
(R169). -/
def opsOrderEntries : List Byte → Option (Word16 × Nat × List Entry)
  | a :: b :: n :: rest =>
    if rest.length = 11 * n.toNat then some (word16 a b, n.toNat, readEntries rest) else none
  | _ => none

/-! ## Payloads of station frames (12.2, R168): bytes beyond a kind's length are ignored -/

/-- LIFT DONE: stamp, read box, read partner box. -/
def opsLiftDone : List Byte → Option (Word16 × Option Word32 × Option Word32)
  | s1 :: s0 :: f :: b3 :: b2 :: b1 :: b0 :: p3 :: p2 :: p1 :: p0 :: _ =>
    some (word16 s1 s0, boxIf f 0 (word32 b3 b2 b1 b0), boxIf f 1 (word32 p3 p2 p1 p0))
  | _ => none

/-- LIFT FAIL: stamp and reason code. -/
def opsLiftFail : List Byte → Option (Word16 × Nat)
  | s1 :: s0 :: r :: _ => some (word16 s1 s0, r.toNat)
  | _ => none

/-- TRUCK ENTER: tag, load state, capacity, box, partner box. -/
structure TruckEnterOps where
  tag      : Word16
  load     : LoadState
  capacity : TruckCapacity
  box      : Option Word32
  partner  : Option Word32
deriving DecidableEq, Repr

def opsTruckEnter : List Byte → Option TruckEnterOps
  | t1 :: t0 :: f :: b3 :: b2 :: b1 :: b0 :: p3 :: p2 :: p1 :: p0 :: _ =>
    some
      { tag := word16 t1 t0
        load := if f.getLsbD 0 then .laden else .empty
        capacity := if f.getLsbD 1 then .c40 else .c20
        box := boxIf f 2 (word32 b3 b2 b1 b0), partner := boxIf f 3 (word32 p3 p2 p1 p0) }
  | _ => none

/-- SPOT: the positioning code, one byte (log entry 22). -/
def opsCode : List Byte → Option Byte
  | a :: _ => some a
  | _ => none

/-! ## Profile records (12.4) -/

namespace Header

/-- Value count, bits 15..13. -/
def valueCount (h : Word16) : Nat := (h.extractLsb' 13 3).toNat

/-- Checksum-present mark, bit 12. -/
def hasChecksum (h : Word16) : Bool := h.getLsbD 12

/-- Item number, bits 11..0. -/
def itemNo (h : Word16) : Nat := (h.extractLsb' 0 12).toNat

end Header

/-- The counted values of a record. -/
def flashValues (r : FlashRecord) : List Word16 :=
  [r.v1, r.v2, r.v3, r.v4].take (Header.valueCount r.header)

/-- The bytes of a record before its checksum. -/
def flashBody (r : FlashRecord) : List Byte :=
  be16 r.header ++ (flashValues r).flatMap be16

/-- How many bytes the record takes up in the flash. -/
def flashSize (r : FlashRecord) : Nat :=
  2 + 2 * Header.valueCount r.header + (if Header.hasChecksum r.header then 1 else 0)

/-- The checksum agrees: A5h XOR every preceding byte (12.4); a record without one has none to disagree. -/
def flashChecksumAgrees (r : FlashRecord) : Bool :=
  !Header.hasChecksum r.header || decide (r.checksum = (flashBody r).foldl (· ^^^ ·) 0xA5#8)

/-- A good record (R165): value count in 1..4 and, where present, the checksum agrees. -/
def flashGood (r : FlashRecord) : Bool :=
  decide (1 ≤ Header.valueCount r.header ∧ Header.valueCount r.header ≤ 4) && flashChecksumAgrees r

end Sys2Proof.Machine
end

