-- ==== Sys2Proof/Machine/BerthCore.lean ====
section
/-!
DEFINITION. What the Berth Table does with a move (chapter 1): the judgement of R11, the effect of R12, the checks
of MOVE CLEAR DONE of R13.
-/

namespace Sys2Proof.Machine

/-- The judgement of R11: hatch, deck lash state and count condition of the move's row. -/
def Bay.allows (b : Bay) (m : Move) : Bool :=
  let n := m.cls.boxes
  match m.kind, m.sect with
  | .discharge, .deck => decide (b.hatch = .on ∧ b.lash = .opened ∧ n ≤ b.deckCount)
  | .load, .deck => decide (b.hatch = .on ∧ b.lash = .opened ∧ b.deckCount + n ≤ b.deckCap)
  | .discharge, .hold => decide (b.hatch = .off ∧ n ≤ b.holdCount)
  | .load, .hold => decide (b.hatch = .off ∧ b.holdCount + n ≤ b.holdCap)
  | .hatchOff, _ => decide (b.hatch = .on ∧ b.lash = .opened ∧ b.deckCount = 0)
  | .hatchOn, _ => decide (b.hatch = .off)

/-- The effect of a done move (R12). -/
def Bay.apply (b : Bay) (m : Move) : Bay :=
  let n := m.cls.boxes
  match m.kind, m.sect with
  | .discharge, .deck => { b with deckCount := b.deckCount - n }
  | .discharge, .hold => { b with holdCount := b.holdCount - n }
  | .load, .deck => { b with deckCount := b.deckCount + n }
  | .load, .hold => { b with holdCount := b.holdCount + n }
  | .hatchOff, _ => { b with hatch := .off }
  | .hatchOn, _ => { b with hatch := .on }

/-- The hatch checks of R13, step 2: the move does not fit the hatch as it stands. -/
def Bay.hatchBars (b : Bay) (m : Move) : Bool :=
  match m.kind, m.sect with
  | .hatchOff, _ => decide (b.hatch = .off ∨ 0 < b.deckCount)
  | .hatchOn, _ => decide (b.hatch = .on)
  | .load, .deck => decide (b.hatch = .off)
  | _, _ => false

/-- The count checks of R13, step 3: the effect would take a count out of its range. -/
def Bay.countBars (b : Bay) (m : Move) : Bool :=
  let n := m.cls.boxes
  match m.kind, m.sect with
  | .discharge, .deck => decide (b.deckCount < n)
  | .discharge, .hold => decide (b.holdCount < n)
  | .load, .deck => decide (b.deckCap < b.deckCount + n)
  | .load, .hold => decide (b.holdCap < b.holdCount + n)
  | _, _ => false

/-- The checks of MOVE CLEAR DONE against the move's bay (R13): the first that fails, or none. -/
def Quay.clearDoneBar (q : Quay) (m : Move) : Option Reason :=
  if (q.inFlightMove? m.bay).isSome then some .bayBusy
  else
    match q.bay? m.bay with
    | none => none
    | some b => if b.hatchBars m then some .hatchState else if b.countBars m then some .countRange else none

end Sys2Proof.Machine
end

