-- ==== Sys2Proof/Machine/Permit.lean ====
section
/-!
DEFINITION. The lift permit (chapter 4): the conditions of R72, the grant of R76, the judgement of current moves on
reports (R73, R74).
-/

namespace Sys2Proof.Machine

/-- The spreader mode that suits a class: TWIN for TWIN20, SINGLE for every other (R72). -/
def LiftClass.suitingMode : LiftClass → SpreaderMode
  | .twin20 => .twin
  | _ => .single

namespace Quay

/-- Crane condition of R72. -/
def craneCondition (q : Quay) (c : Crane) (m : Move) : Bool :=
  q.craneOnline c.num && decide (c.state = .working) && decide (c.bay = some m.bay) &&
    decide (c.span = some ⟨m.bay, m.bay⟩) && c.enable && !q.stopInForce && q.linkCarries .crane

/-- Bay condition of R72: the judgement of R11. -/
def bayCondition (q : Quay) (m : Move) : Bool :=
  match q.bay? m.bay with
  | some b => b.allows m
  | none => false

/-- A gang is WORKING with the bay as its bay. -/
def gangWorkingAt (q : Quay) (b : Nat) : Bool := q.gangs.any fun g => g.state = .working ∧ g.bay = some b

/-- Truck condition of R72, for non-hatch moves. -/
def truckCondition (q : Quay) (m : Move) : Bool :=
  match m.truck with
  | none => false
  | some t =>
    match q.laneByLogical? t.lane with
    | none => false
    | some l =>
      match l.fifo with
      | [] => false
      | head :: _ => decide (head.tag = t.tag) && head.set && decide (l.state = .opened) && q.gateOnline l.phys

/-- Every condition of R72, the slot last (R74). -/
def permitHolds (q : Quay) (c : Crane) (m : Move) : Bool :=
  q.craneCondition c m && q.bayCondition m && !q.gangWorkingAt m.bay && (m.isHatch || q.truckCondition m) &&
    decide (c.spreader = m.cls.suitingMode) && q.routineSlot .crane

/-- LIFT PERMIT for a move under a stamp (R76). -/
def liftPermit (m : Move) (stamp : Word16) : TxMsg :=
  .liftPermit stamp m.num m.bay m.sect m.kind m.cls m.row m.tier m.truck

/-- The grant (R76): the counter advances, the move becomes PERMITTED under the new value, the acceptance timer
starts with T_ACCEPT, LIFT PERMIT takes its slot. The Berth Table's in-flight field is the view of R6. -/
def grant (q : Quay) (c : Nat) (m : Move) : Quay :=
  let stamp := q.grantCounter + 1
  let q := q.setCounter stamp
  let q := q.updMove m.num fun x => { x with state := .permitted, stamp := some stamp }
  let q := q.updCrane c fun x => { x with accept := .running (q.item Item.tAccept) }
  q.enqueue .crane c (liftPermit m stamp)

/-- A move that a judgement may grant: MATCHED, or a hatch move in STAGED (R72, R73). -/
def awaitsPermit (m : Move) : Bool := decide (m.state = .matched) || (decide (m.state = .staged) && m.isHatch)

/-- The judgement of a crane's current move (R72, R73). While the crane's JOIN is carried out it grants nothing
(R47). -/
def judge (q : Quay) (c : Nat) : Quay :=
  if q.grantBar = some c then q
  else
    match q.crane? c, q.currentMove? c with
    | some cr, some m => if awaitsPermit m && q.permitHolds cr m then q.grant c m else q
    | _, _ => q

/-- Every crane's current move is judged, in rising crane number (R74). -/
def judgeAll (q : Quay) : Quay := forEach (fun c q => q.judge c) q.craneNums q

/-- The current moves whose bay is `b` are judged (R7, R73). -/
def judgeBay (q : Quay) (b : Nat) : Quay :=
  forEach (fun c q => if (q.currentMove? c).any (fun m => m.bay = b) then q.judge c else q) q.craneNums q

/-- The current move bound to the head truck of a lane is judged (R73, Lane Unit). -/
def judgeLane (q : Quay) (p : Nat) : Quay :=
  match (((q.lane? p).bind fun l => l.fifo.head?).bind (·.bound)).bind q.move? with
  | some m => if (q.currentMove? m.crane).any (fun x => x.num = m.num) then q.judge m.crane else q
  | none => q

end Quay

end Sys2Proof.Machine
end

