-- ==== Sys2Proof/Machine/LaneCore.lean ====
section
/-!
DEFINITION. Calling and binding trucks (chapter 5, 5.5 and 5.6) and the staging of moves (chapter 4, 4.1): R67 to
R71, R107 to R111.
-/

namespace Sys2Proof.Machine

/-! ## Which truck suits which move (R108) -/

def boxList (a b : Option Word32) : List Word32 := a.toList ++ b.toList

/-- The boxes a truck carries or is booked for. -/
def Truck.boxes (t : Truck) : List Word32 := boxList t.box t.partner

/-- The boxes of a move. -/
def Move.boxes (m : Move) : List Word32 := boxList m.box m.partner

/-- Two lists name the same set of boxes. -/
def sameBoxes (a b : List Word32) : Bool := a.all (fun x => b.contains x) && b.all (fun x => a.contains x)

/-- SINGLE20 takes C20 or C40; SINGLE40 and TWIN20 take C40 (R108). -/
def TruckCapacity.suits (k : TruckCapacity) : LiftClass → Bool
  | .single20 => true
  | .single40 => decide (k = .c40)
  | .twin20 => decide (k = .c40)
  | .cover => false

/-- A truck suits a move (R108). -/
def Truck.suits (t : Truck) (m : Move) : Bool :=
  match m.kind with
  | .discharge =>
    decide (t.load = .empty) && t.capacity.suits m.cls &&
      (t.boxes.isEmpty || m.boxes.isEmpty || sameBoxes t.boxes m.boxes)
  | .load => decide (t.load = .laden) && sameBoxes t.boxes m.boxes
  | .hatchOff | .hatchOn => false

/-- A truck carries boxes of a move (R108). -/
def Truck.carriesBoxesOf (t : Truck) (m : Move) : Bool := !t.boxes.isEmpty && !m.boxes.isEmpty && t.suits m

/-- Keep, of two lanes, the one whose FIFO holds fewer trucks; at equal counts the earlier (R107). -/
def fewerTrucks (best : Option Lane) (l : Lane) : Option Lane :=
  match best with
  | none => some l
  | some b => if l.fifo.length < b.fifo.length then some l else some b

namespace Quay

/-- The lanes assigned to a crane, in rising logical number. -/
def lanesOf (q : Quay) (c : Nat) : List Lane :=
  sortBy (fun a b => a.logical ≤ b.logical) (q.lanes.filter fun l => l.crane = some c)

/-- NO_LANE for a crane: 0 NO_OPEN_LANE, 1 NO_GATE (R107, 12.3). -/
def noLane (c cause : Nat) : Posting :=
  { kind := .noLane, subject := .crane, number := c, detail := [byte cause] }

/-- Call a truck for a move: TRUCK CALL to the least-filled OPEN assigned lane whose gate is ONLINE, or NO_LANE
(R107). -/
def callTruck (q : Quay) (c : Nat) (m : Move) : Quay :=
  let openLanes := (q.lanesOf c).filter fun l => l.state = .opened
  match (openLanes.filter fun l => q.gateOnline l.phys).foldl fewerTrucks none with
  | some l => q.sendRoutine .lane l.phys (.truckCall l.logical c m.bay m.cls m.kind m.box m.partner)
  | none => q.post (noLane c (if openLanes.isEmpty then 0 else 1))

/-- The unbound head trucks of a crane's assigned lanes in OPEN or CAUTION, in rising logical number, less a truck
that is leaving (log entry 12). -/
def freeHeads (q : Quay) (c : Nat) (leaving : Option Word16) : List (Lane × Truck) :=
  (q.lanesOf c).filterMap fun l =>
    if l.state = .opened ∨ l.state = .caution then
      match l.fifo with
      | [] => none
      | t :: _ => if t.bound.isNone ∧ some t.tag ≠ leaving then some (l, t) else none
    else none

/-- Bind a truck to a move (R109, steps 1 to 3; R71): both fields are written, the move becomes MATCHED, the truck
wait timer stops, the move is judged. -/
def bindTruck (q : Quay) (c moveNum : Nat) (l : Lane) (t : Truck) : Quay :=
  let q := q.updTruck t.tag fun x => { x with bound := some moveNum }
  let q := q.updMove moveNum fun x => { x with truck := some ⟨t.tag, l.logical⟩, state := .matched }
  let q := q.updCrane c fun x => { x with truckWait := .stopped }
  q.judge c

/-- The move FLEX promotion takes for a STAGED move, with its lane and truck (R110): the QUEUED move of the same
order and group of lowest issue position whose boxes a free head carries. -/
def promotion? (q : Quay) (m : Move) (heads : List (Lane × Truck)) : Option (Move × Lane × Truck) :=
  if ((q.order? m.order).bind (·.ordering)) = some .flex then
    let candidates := (q.movesOf m.order).filter fun x =>
      x.state = .queued ∧ x.group = m.group ∧ heads.any (fun h => h.2.carriesBoxesOf x)
    (lowestPos candidates).bind fun x =>
      (heads.find? fun h => h.2.carriesBoxesOf x).map fun h => (x, h.1, h.2)
  else none

/-- TRUCK_MISORDER (R111). -/
def truckMisorder (l : Lane) (t : Truck) (moveNum : Nat) : Posting :=
  { kind := .truckMisorder, subject := .lane, number := l.logical, detail := be16 t.tag ++ be16n moveNum }

/-- Report each free head that carries boxes of another live move of the order, once (R111). That several heads of one
evaluation are reported in rising logical number is the model's choice (log entry 45). -/
def reportMisorder (q : Quay) (m : Move) (heads : List (Lane × Truck)) : Quay :=
  forEach
    (fun h q =>
      if h.2.misorder then q
      else
        match lowestPos ((q.movesOf m.order).filter fun x => x.num ≠ m.num ∧ h.2.carriesBoxesOf x) with
        | some x => (q.post (truckMisorder h.1 h.2 x.num)).updTruck h.2.tag fun t => { t with misorder := true }
        | none => q)
    heads q

/-- Binding is evaluated for a crane (R109): the first suiting free head is bound; else FLEX promotion (R110); else
misorder reporting (R111). A crane whose current move is not a non-hatch move in STAGED is left as it is. -/
def evalBinding (q : Quay) (c : Nat) (leaving : Option Word16 := none) : Quay :=
  match q.currentMove? c with
  | none => q
  | some m =>
    if m.state = .staged ∧ m.isHatch = false then
      let heads := q.freeHeads c leaving
      match heads.find? fun h => h.2.suits m with
      | some h => q.bindTruck c m.num h.1 h.2
      | none =>
        match q.promotion? m heads with
        | some (x, l, t) =>
          let q := q.updMove m.num fun y => { y with state := .queued }
          let q := q.updCrane c fun y => { y with current := some x.num }
          q.bindTruck c x.num l t
        | none => q.reportMisorder m heads
    else q

/-- Binding is evaluated for the crane a lane is assigned to (R109). -/
def evalLane (q : Quay) (p : Nat) : Quay :=
  match (q.lane? p).bind (·.crane) with
  | some c => q.evalBinding c
  | none => q

/-- A lane has a new head, or has changed state: the Permit Unit is told and binding is evaluated (R97, R102). -/
def laneChanged (q : Quay) (p : Nat) : Quay := (q.judgeLane p).evalLane p

/-! ## Staging (R67 to R71) -/

/-- Steps 2 to 6 of R69 for a non-hatch move just STAGED: truck call, truck wait timer with late count 0 (R70),
SPREADER CHANGE where the mode does not suit (R58), binding, judgement. A hatch move is judged at once. -/
def stageSteps (q : Quay) (c : Nat) (m : Move) (leaving : Option Word16 := none) : Quay :=
  if m.isHatch then q.judge c
  else
    let q := q.callTruck c m
    let q := q.updCrane c fun x => { x with truckWait := .running (q.item Item.tTruck), late := 0 }
    let q :=
      if (q.crane? c).any (fun x => x.spreader ≠ m.cls.suitingMode) then
        q.sendCrane c (.spreaderChange m.cls.suitingMode)
      else q
    let q := q.evalBinding c leaving
    q.judge c

/-- The move the staging rule takes (R67): the QUEUED move of lowest issue position of the crane's ACTIVE order,
when the crane has no current move and the order holds no FAULTED move. -/
def stageable? (q : Quay) (c : Nat) : Option Move :=
  match q.crane? c with
  | none => none
  | some cr =>
    match cr.current, cr.active.bind q.order? with
    | none, some o =>
      if o.state = .active ∧ (q.movesOf o.slot).any (fun m => m.state = .faulted) = false then
        lowestPos ((q.movesOf o.slot).filter fun m => m.state = .queued)
      else none
    | _, _ => none

/-- The staging rule for a crane (R67, R68, R69). While the crane's JOIN is carried out it waits for the JOIN's end,
where the Permit Unit is told (R47). -/
def applyStaging (q : Quay) (c : Nat) : Quay :=
  if q.grantBar = some c then q
  else
    match q.stageable? c with
    | none => q
    | some m =>
      let q := q.updMove m.num fun x => { x with state := .staged }
      let q := q.updCrane c fun x => { x with current := some m.num }
      q.stageSteps c m

/-- A truck and its move part, both fields becoming absent together (R109); the truck keeps its place. -/
def unbind (q : Quay) (m : Move) : Quay :=
  let q :=
    match m.truck with
    | some t => q.updTruck t.tag fun x => { x with bound := none }
    | none => q
  q.updMove m.num fun x => { x with truck := none }

/-- A MATCHED move's truck is unbound: the move returns to STAGED and is staged anew (R71). -/
def unbindAndRestage (q : Quay) (m : Move) : Quay :=
  let q := q.unbind m
  let q := q.updMove m.num fun x => { x with state := .staged }
  q.stageSteps m.crane m (m.truck.map (·.tag))

end Quay

end Sys2Proof.Machine
end

