-- ==== Sys2Proof/Machine/LashCore.lean ====
section
/-!
DEFINITION. Lashing Dispatch's shared operations (chapter 6): the dispatch list and dispatch (R120, R121), the changes
of the deck lash state (R116 to R118), the unlash trigger (R41), a gang's return to IDLE.
-/

namespace Sys2Proof.Machine

/-- The distance of two bay numbers, without sign (R121). -/
def bayDistance (a b : Nat) : Nat := (a - b) + (b - a)

/-- Keep, of two gangs, the nearer to the bay; at equal distance the earlier (R121). -/
def nearer (b : Nat) (best : Option Gang) (g : Gang) : Option Gang :=
  match best with
  | none => some g
  | some x => if bayDistance g.lastBay b < bayDistance x.lastBay b then some g else some x

/-- The task for a due bay: UNLASH in UNLASH_DUE, LASH in LASH_DUE (R119, R121). -/
def Lash.task : Lash → LashTask
  | .lashDue => .lash
  | _ => .unlash

namespace Quay

/-- The IDLE gangs whose station is ONLINE (R121). -/
def idleGangs (q : Quay) : List Gang := q.gangs.filter fun g => g.state = .idle ∧ q.gangOnline g.num = true

/-- The gang a dispatch chooses for a bay (R121). -/
def nearestGang? (q : Quay) (b : Nat) : Option Gang := q.idleGangs.foldl (nearer b) none

/-- A bay leaves the dispatch list (R120). -/
def leaveList (q : Quay) (b : Nat) : Quay := q.setDispatch (q.dispatch.filter fun x => x ≠ b)

/-- Order one gang to one bay (R121, steps 1 to 4). -/
def orderGang (q : Quay) (g b : Nat) (task : LashTask) : Quay :=
  let q := q.enqueue .crane (gangStation g) (.lashOrder task b)
  let q := q.updGang g fun x =>
    { x with state := .ordered, task := some task, bay := some b, timer := .running (q.item Item.tLash) }
  q.leaveList b

/-- The dispatch (R121): the head bay to the nearest IDLE ONLINE gang while there are both and the pool gives a
slot. `fuel` is the length of the list, which each order shortens. -/
def dispatchLoop : Nat → Quay → Quay
  | 0, q => q
  | fuel + 1, q =>
    match q.dispatch with
    | [] => q
    | b :: _ =>
      match q.nearestGang? b with
      | none => q
      | some g =>
        if q.routineSlot .crane then
          dispatchLoop fuel (q.orderGang g.num b ((q.bay? b).map (·.lash.task) |>.getD .unlash))
        else q

def makeDispatch (q : Quay) : Quay := dispatchLoop q.dispatch.length q

/-- Write a bay's deck lash state. -/
def setLash (q : Quay) (b : Nat) (s : Lash) : Quay := q.updBay b fun x => { x with lash := s }

/-- A bay joins the tail of the list (R120); it never stands there twice. -/
def joinTail (q : Quay) (b : Nat) : Quay := q.setDispatch ((q.dispatch.filter fun x => x ≠ b) ++ [b])

/-- A bay returns to the head of the list (R120). -/
def joinHead (q : Quay) (b : Nat) : Quay := q.setDispatch (b :: q.dispatch.filter fun x => x ≠ b)

/-- A bay falls due: its deck lash state is set, it joins the tail of the list, a dispatch is made, and the Berth
Table reports the change (R116, R120, R121; the order of the last two is log entry 11). -/
def fallDue (q : Quay) (b : Nat) (s : Lash) : Quay :=
  (((q.setLash b s).joinTail b).makeDispatch).judgeBay b

/-- The unlash trigger (R41): a LASHED bay becomes UNLASH_DUE; any other state stays. -/
def unlashTrigger (q : Quay) (b : Nat) : Quay :=
  if (q.bay? b).any fun x => x.lash = .lashed then q.fallDue b .unlashDue else q

/-- A gang becomes IDLE without task and bay, its lash timer stopped; `last` is its last bay from now on. -/
def gangToIdle (q : Quay) (g : Nat) (last : Option Nat) : Quay :=
  q.updGang g fun x =>
    { x with state := .idle, task := none, bay := none, lastBay := last.getD x.lastBay, timer := .stopped }

/-- LASH CANCEL for a gang's task, a routine frame to its station (R117, R126, R129). -/
def sendLashCancel (q : Quay) (g : Gang) : Quay :=
  match g.task, g.bay with
  | some t, some b => q.sendRoutine .crane (gangStation g.num) (.lashCancel t b)
  | _, _ => q

/-- The gang ORDERED for a bay. -/
def orderedGang? (q : Quay) (b : Nat) : Option Gang :=
  q.gangs.find? fun g => g.state = .ordered ∧ g.bay = some b

/-- A bay's unlashing is no longer wanted (R117, UNLASH_DUE): it becomes LASHED and leaves the list; a gang ORDERED
for it is sent LASH CANCEL and becomes IDLE, and a dispatch is made for it. The Berth Table's report of LASHED comes
after these, the model's choice (log entry 11). -/
def unlashingGone (q : Quay) (b : Nat) : Quay :=
  let q := (q.setLash b .lashed).leaveList b
  let q :=
    match q.orderedGang? b with
    | some g => ((q.sendLashCancel g).gangToIdle g.num none).makeDispatch
    | none => q
  q.judgeBay b

/-- The end of deck work of a bay, with the reported deck count (R117). -/
def endOfDeckWork (q : Quay) (b count : Nat) : Quay :=
  match q.bay? b with
  | none => q
  | some x =>
    match x.lash with
    | .opened => if 0 < count then q.fallDue b .lashDue else q
    | .unlashDue => q.unlashingGone b
    | .lashed | .unlashing | .lashDue | .lashing => q

/-- A LIFT FAIL with reason CONE on a deck box: an OPEN bay becomes UNLASH_DUE (R118). -/
def coneFailure (q : Quay) (b : Nat) : Quay :=
  if (q.bay? b).any fun x => x.lash = .opened then q.fallDue b .unlashDue else q

/-- A gang gave its task up: the bay returns to the head of the list and a dispatch is made (R120, R121). -/
def giveBack (q : Quay) (b : Nat) : Quay := (q.joinHead b).makeDispatch

/-- Whether a dispatch could claim a slot at all: a bay waits and a gang is free. -/
def dispatchReady (q : Quay) : Bool := !q.dispatch.isEmpty && !q.idleGangs.isEmpty

/-- The freed-slot report (R150): the Permit Unit judges every current move and Lashing Dispatch makes a dispatch.
R150 leaves the order of their claims open: where both could claim, a free value orders them, and the block that comes
first makes all its claims before the other makes any (the model's choice: log entry 6). -/
def freedSlots (q : Quay) : Quay :=
  if q.dispatchReady then
    if Config.permitUnitFirst q.freeCount then (q.countFree.judgeAll).makeDispatch
    else (q.countFree.makeDispatch).judgeAll
  else q.judgeAll

end Quay

end Sys2Proof.Machine
end

