-- ==== Sys2Proof/Machine/OrderCore.lean ====
section
/-!
DEFINITION. The course of orders and moves that several commands share: crane settling (R44), activation, push and
pop (R35, R62 to R64), the stall check (R37), a move's end (R14, R36), truck release (R112), withdrawal (R77),
entry to FAULTED and crane faults (R55, R87).
-/

namespace Sys2Proof.Machine

namespace Quay

/-! ## Crane settling, notices, enables -/

/-- IDLE or WORKING by the test of R44: WORKING when the active order is for the crane's bay. -/
def restState (q : Quay) (c : Nat) : CraneState :=
  match q.crane? c, q.activeOrder? c with
  | some cr, some o => if cr.bay = some o.bay then .working else .idle
  | _, _ => .idle

/-- A crane takes up IDLE or WORKING, whatever its state was (R44: on leaving another state). -/
def takeUp (q : Quay) (c : Nat) : Quay :=
  let st := q.restState c
  (q.updCrane c fun x => { x with state := st }).judge c

/-- The settling of R44: a crane in IDLE or WORKING only. -/
def settle (q : Quay) (c : Nat) : Quay :=
  if (q.crane? c).any fun x => x.state = .idle ∨ x.state = .working then q.takeUp c else q

/-- The order's first move as R35 defines it: the QUEUED move of lowest issue position, else the live move of
lowest issue position. -/
def firstMove? (q : Quay) (slot : Nat) : Option Move :=
  match lowestPos ((q.movesOf slot).filter fun m => m.state = .queued) with
  | some m => some m
  | none => lowestPos (q.movesOf slot)

/-- WORK NOTICE for an order, if the crane's station is ONLINE (R35). -/
def workNotice (q : Quay) (c slot : Nat) : Quay :=
  match q.order? slot, q.firstMove? slot with
  | some o, some m => q.sendCrane c (.workNotice o.tag o.bay o.sect m.cls)
  | _, _ => q

/-- A write of a crane's permit enable through the stop rule (R59, R136). -/
def writeEnable (q : Quay) (c : Nat) (v : Bool) : Quay :=
  if q.stopInForce then q.updCrane c fun x => { x with savedEnable := v }
  else (q.updCrane c fun x => { x with enable := v }).judge c

/-! ## Stall check (R37) -/

/-- ORDER_STALLED for an order (R37). -/
def orderStalled (o : Order) (deferred : Nat) : Posting :=
  { kind := .orderStalled, subject := .order, number := o.tag.toNat, detail := [byte deferred] }

/-- The stall check (R37): an ACTIVE order with live moves, all DEFERRED, and the stall mark clear. -/
def stallCheck (q : Quay) (slot : Nat) : Quay :=
  match q.order? slot with
  | none => q
  | some o =>
    let ms := q.movesOf slot
    if o.state = .active ∧ 0 < o.live ∧ o.stalled = false ∧ ms.all (fun m => m.state = .deferred) = true then
      (q.post (orderStalled o ms.length)).updOrder slot fun x => { x with stalled := true }
    else q

/-! ## Activation, push, pop (R35, R63, R64) -/

/-- The order's tag, for events. -/
def tagOf (q : Quay) (slot : Nat) : Word16 := ((q.order? slot).map (·.tag)).getD 0

/-- An order becomes ACTIVE by step 1 or 3 of R35: announced, the crane settled, the stall check made. -/
def activate (q : Quay) (c slot : Nat) : Quay :=
  let q := q.updOrder slot fun x => { x with state := .active }
  let q := q.updCrane c fun x => { x with active := some slot }
  let q := q.workNotice c slot
  (q.settle c).stallCheck slot

/-- A current move in STAGED or MATCHED returns to QUEUED, its truck unbound and its wait timer stopped (R63,
step 3). -/
def setAsideCurrent (q : Quay) (c : Nat) : Quay :=
  match q.currentMove? c with
  | none => q
  | some m =>
    if m.state = .staged ∨ m.state = .matched then
      let q := q.unbind m
      let q := q.updMove m.num fun x => { x with state := .queued }
      q.updCrane c fun x => { x with current := none, truckWait := .stopped }
    else q

/-- HOLD_PUSH (R63, step 6). -/
def holdPush (c : Nat) (pushed new : Word16) : Posting :=
  { kind := .holdPush, subject := .crane, number := c, detail := be16 pushed ++ be16 new }

/-- The push of R63: the active order is set aside on the hold stack for the URGENT order in `slot`. -/
def push (q : Quay) (c slot : Nat) : Quay :=
  match q.crane? c, q.activeOrder? c with
  | some cr, some old =>
    let entry : StackEntry :=
      { order := old.slot, bay := cr.bay, mode := cr.spreader
        enable := if q.stopInForce then cr.savedEnable else cr.enable }
    let q := q.updCrane c fun x => { x with stack := entry :: x.stack, active := none }
    let q := q.updOrder old.slot fun x => { x with state := .stacked }
    let q := q.setAsideCurrent c
    let q := q.writeEnable c true
    let q := q.updOrder slot fun x => { x with state := .active }
    let q := q.updCrane c fun x =>
      { x with active := some slot, preempt := if x.preempt = some slot then none else x.preempt }
    let q := q.workNotice c slot
    let q := q.post (holdPush c old.tag (q.tagOf slot))
    (q.settle c).stallCheck slot
  | _, _ => q

/-- HOLD_POP (R64, step 5): mark 0 AT_BAY, 1 AWAY (12.3). -/
def holdPop (c : Nat) (tag : Word16) (bay : Option Nat) (away : Bool) : Posting :=
  { kind := .holdPop, subject := .crane, number := c, detail := be16 tag ++ optByte bay ++ [byte (bitAt 0 away)] }

/-- The pop of R64, for the entry on top of the stack. -/
def popEntry (q : Quay) (c : Nat) (e : StackEntry) : Quay :=
  let q := q.updCrane c fun x => { x with stack := x.stack.tail, active := some e.order }
  let q := q.updOrder e.order fun x => { x with state := .active }
  let q := q.writeEnable c e.enable
  let q :=
    if e.mode ≠ .unknown ∧ (q.crane? c).any (fun x => x.spreader ≠ e.mode) = true then
      q.sendCrane c (.spreaderChange e.mode)
    else q
  let q := q.workNotice c e.order
  let q := q.post (holdPop c (q.tagOf e.order) e.bay ((q.crane? c).any fun x => x.bay ≠ e.bay))
  (q.settle c).stallCheck e.order

/-- The choice of R35 for a crane with no active order: pending preemption, hold stack, head of the list of an
ONLINE crane, or none. The staging rule follows at the end of the command's rule (R68; log entry 15). -/
def chooseActive (q : Quay) (c : Nat) : Quay :=
  match q.crane? c with
  | none => q
  | some cr =>
    if cr.active.isSome then q
    else
      match cr.preempt, cr.stack, cr.waiting with
      | some p, _, _ => (q.updCrane c fun x => { x with preempt := none }).activate c p
      | none, e :: _, _ => q.popEntry c e
      | none, [], w :: ws =>
        if q.craneOnline c then (q.updCrane c fun x => { x with waiting := ws }).activate c w else q.settle c
      | none, [], [] => q.settle c

/-- A pending preemption is taken (R62): pushed when the active order is ACTIVE and no move of it blocks. An active
order that left the table had R35 take the pending order; a CANCELLING one keeps it pending. -/
def takePending (q : Quay) (c : Nat) : Quay :=
  match (q.crane? c).bind (·.preempt), q.activeOrder? c with
  | some p, some o => if o.state = .active ∧ q.blocked o.slot = false then q.push c p else q
  | _, _ => q

/-! ## The end of a move (R14, R36) -/

/-- What a move's end does in the Berth Table (R14): its effect if it was done, its record back on the free list,
the change report, the end of deck work when the bay's last live deck move has ended. -/
def berthEnd (q : Quay) (m : Move) (done : Bool) : Quay :=
  let before := q.bay? m.bay
  let q := if done then q.updBay m.bay fun b => b.apply m else q
  let changed := decide (q.bay? m.bay ≠ before)
  let q := q.freeMove m.num
  let q := if changed then q.judgeBay m.bay else q
  if m.sect = .deck ∧ q.liveMoves m.bay .deck = 0 then
    q.endOfDeckWork m.bay (((q.bay? m.bay).map (·.deckCount)).getD 0)
  else q

/-- ORDER_COMPLETE (R36, 12.3): 0 ALL_DONE, 1 WITH_CANCELLED, then the done count. -/
def orderComplete (o : Order) : Posting :=
  { kind := .orderComplete, subject := .order, number := o.tag.toNat
    detail := [byte (bitAt 0 (o.cancelled ≠ 0)), byte o.done] }

/-- An order of live count 0 leaves the table (R36); R35 chooses the crane's next if it was the active one. -/
def orderLeaves (q : Quay) (o : Order) : Quay :=
  let q := q.dropOrder o.slot
  let q := q.post (orderComplete o)
  if (q.crane? o.crane).any fun x => x.active = some o.slot then
    (q.updCrane o.crane fun x => { x with active := none }).chooseActive o.crane
  else q

/-- A done or cancelled move is counted against its order (R36). -/
def countEnd (q : Quay) (slot : Nat) (done : Bool) : Quay :=
  let q := q.updOrder slot fun x =>
    if done then { x with live := x.live - 1, done := x.done + 1 }
    else { x with live := x.live - 1, cancelled := x.cancelled + 1 }
  match q.order? slot with
  | none => q
  | some o => if o.live = 0 then q.orderLeaves o else q

/-- A move ends in the Berth Table and is counted (R14, R36). -/
def moveEnds (q : Quay) (m : Move) (done : Bool) : Quay := (q.berthEnd m done).countEnd m.order done

/-- A move ends: counted, and the stall check made where its order is still ACTIVE (R36, R37). That the check comes before
the event's own report (MOVE_DONE) and before a pending preemption is taken, so that an order about to be pushed may be
reported stalled, is the model's choice (log entry 39). -/
def moveEndsChecked (q : Quay) (m : Move) (done : Bool) : Quay := (q.moveEnds m done).stallCheck m.order

/-- The course at the end of an event at a crane's move: a pending preemption, then the staging rule (R62, R68). Inside
a larger command an order pushed here is staged here, with the state the command has reached, and not at the command's
end (the model's choice: log entry 15); in a crane's JOIN the staging waits for the JOIN's end (log entry 10). -/
def afterMove (q : Quay) (c : Nat) : Quay := (q.takePending c).applyStaging c

/-! ## Truck release (R112) -/

/-- A truck record leaves its FIFO; if it was the head, the next truck is made head (R102). -/
def removeTruck (q : Quay) (p : Nat) (tag : Word16) : Quay :=
  let wasHead := ((q.lane? p).bind fun l => l.fifo.head?).any fun t => t.tag = tag
  let q := q.updLane p fun l => { l with fifo := l.fifo.filter fun t => t.tag ≠ tag }
  if wasHead ∧ ((q.lane? p).any fun l => !l.fifo.isEmpty) = true then q.laneChanged p else q

/-- The truck of a move is released with the given load (R112): TRUCK RELEASE where the lane link carries frames
and the gate is ONLINE; the fields part; the truck leaves its FIFO. -/
def releaseTruck (q : Quay) (m : Move) (load : LoadState) (box partner : Option Word32) : Quay :=
  match m.truck with
  | none => q
  | some t =>
    match q.laneOfTag? t.tag with
    | none => q.updMove m.num fun x => { x with truck := none }
    | some l =>
      let q :=
        if q.gateOnline l.phys then q.sendUrgent .lane l.phys (.truckRelease t.tag l.logical load box partner) else q
      let q := q.updMove m.num fun x => { x with truck := none }
      q.removeTruck l.phys t.tag

/-- The truck bound to a move. -/
def boundTruck? (q : Quay) (m : Move) : Option Truck :=
  m.truck.bind fun t => (q.laneOfTag? t.tag).bind fun l => l.fifo.find? fun x => x.tag = t.tag

/-- Release after a done move: a DISCHARGE truck leaves LADEN with the given boxes, a LOAD truck EMPTY (R112). -/
def releaseDone (q : Quay) (m : Move) (box partner : Option Word32) : Quay :=
  match m.kind with
  | .discharge => q.releaseTruck m .laden box partner
  | _ => q.releaseTruck m .empty none none

/-- Release after a cancelled move: a LADEN truck keeps its boxes, an EMPTY one leaves empty and its booking is
dropped (R112). -/
def releaseCancelled (q : Quay) (m : Move) : Quay :=
  match q.boundTruck? m with
  | some t =>
    match t.load with
    | .laden => q.releaseTruck m .laden t.box t.partner
    | .empty => q.releaseTruck m .empty none none
  | none => q

/-! ## Withdrawal (R77, R78) -/

/-- PERMIT_LAPSED (R77, step 5). -/
def permitLapsed (moveNum : Nat) (cause : Lapse) (stamp : Option Word16) : Posting :=
  { kind := .permitLapsed, subject := .move, number := moveNum, detail := [byte cause.code], stamp := stamp }

/-- Only the crane link's silence withdraws without PERMIT WITHDRAW (R78). -/
def Lapse.sendsFrame : Lapse → Bool
  | .link => false
  | _ => true

/-- Steps 1 to 5 of R77 for a PERMITTED move of a crane. -/
def withdrawCore (q : Quay) (c : Nat) (m : Move) (cause : Lapse) : Quay :=
  let q := q.updCrane c fun x => { x with accept := .stopped }
  let q := q.updMove m.num fun x => { x with stamp := none, state := if m.isHatch then .staged else .matched }
  let q :=
    if Lapse.sendsFrame cause then q.sendUrgent .crane c (.permitWithdraw (m.stamp.getD 0) cause) else q
  q.post (permitLapsed m.num cause m.stamp)

/-- Steps 7 and 8 of R77: a pending preemption is taken, and the move, if still current, is judged. -/
def afterWithdraw (q : Quay) (c : Nat) : Quay := (q.afterMove c).judge c

/-- The withdrawal of a crane's PERMITTED current move for a cause with no course of its own (R77). Nothing happens
where the current move is not PERMITTED. -/
def withdraw (q : Quay) (c : Nat) (cause : Lapse) : Quay :=
  match q.currentMove? c with
  | none => q
  | some m => if m.state = .permitted then (q.withdrawCore c m cause).afterWithdraw c else q

/-! ## Crane faults and FAULTED moves (R55, R87) -/

/-- CRANE_FAULT: 0 MOVE, 1 SPAN (R55, 12.3). -/
def craneFaultEvent (c cause : Nat) : Posting :=
  { kind := .craneFault, subject := .crane, number := c, detail := [byte cause] }

/-- A crane enters a fault (R55): the mark, FAULT where the station is ONLINE, the event given, and the withdrawal
of a PERMITTED current move. That the event comes before the withdrawal, and so before PERMIT_LAPSED and any HOLD_PUSH,
is the model's choice (log entry 46). -/
def enterFault (q : Quay) (c : Nat) (p : Posting) : Quay :=
  let online := q.craneOnline c
  let q := q.updCrane c fun x => { x with faultMark := true, state := if online then .fault else x.state }
  (q.post p).withdraw c .fault

end Quay

/-- Causes of MOVE_FAULT (R87, 12.3). -/
inductive FaultCause where
  | failLimit | liftTimer | join | leave
deriving DecidableEq, Repr

def FaultCause.code : FaultCause → Nat
  | .failLimit => 0 | .liftTimer => 1 | .join => 2 | .leave => 3

namespace Quay

/-- MOVE_FAULT (R87, step 5). -/
def moveFaultEvent (m : Move) (cause : FaultCause) : Posting :=
  { kind := .moveFault, subject := .move, number := m.num, detail := [byte cause.code], stamp := m.stamp }

/-- A LIFTING move becomes FAULTED (R87): the lift timer stops, the crane has no current move, MOVE_FAULT is posted,
the crane enters a fault with detail MOVE. -/
def moveFaulted (q : Quay) (c : Nat) (m : Move) (cause : FaultCause) : Quay :=
  let q := q.updCrane c fun x => { x with lift := .stopped, current := none }
  let q := q.updMove m.num fun x => { x with state := .faulted }
  let q := q.post (moveFaultEvent m cause)
  q.enterFault c (craneFaultEvent c 0)

end Quay

end Sys2Proof.Machine
end

