-- ==== Sys2Proof/Machine/StopCore.lean ====
section
/-!
DEFINITION. The quay stop's shared operations (chapter 7): a source joins, a stop starts (R133 to R135), the stop
state is told to a station that joined (R138).
-/

namespace Sys2Proof.Machine

/-- QUAY_STOP's subject number: the station of a crane or gang source, 0 for PIN and PLANNER (R134). -/
def Source.station : Source → Nat
  | .pin => 0
  | .planner => 0
  | .crane n => n
  | .gang g => Quay.gangStation g

/-- QUAY_STOP (R134, step 6). -/
def quayStopEvent (src : Source) : Posting :=
  { kind := .quayStop, subject := .station, number := src.station, detail := [byte src.code] }

/-- The broadcast station (introduction, Stations). -/
def broadcast : Nat := 31

namespace Quay

/-- A frame on each link that can carry it (R134, R137). The crane link's frame claims its slot before the lane link's,
the model's choice (log entry 40). -/
def broadcastUrgent (q : Quay) (msg : TxMsg) : Quay :=
  (q.sendUrgent .crane broadcast msg).sendUrgent .lane broadcast msg

/-- The timers held at the start of a stop: lift timers of LIFTING moves, gantry timers of cranes in POSITIONING
(R135). -/
def holdTimers (q : Quay) (c : Nat) : Quay :=
  let lifting := (q.currentMove? c).any fun m => m.state = .lifting
  q.updCrane c fun x =>
    { x with
      lift := if lifting then x.lift.hold else x.lift
      gantry := if x.state = .positioning then x.gantry.hold else x.gantry }

/-- The permit enable goes to the stop-saved enable and is set off (R134, step 2). -/
def saveEnable (q : Quay) (c : Nat) : Quay :=
  q.updCrane c fun x => { x with savedEnable := x.enable, enable := false }

/-- The start of a stop by a source that joins the empty set (R134). -/
def startStop (q : Quay) (src : Source) : Quay :=
  let q := q.setStop { sources := [src], first := some src, start := some q.clock }
  let q := forEach (fun c q => q.saveEnable c) q.craneNums q
  let q := forEach (fun c q => q.withdraw c .stop) q.craneNums q
  let q := forEach (fun c q => q.holdTimers c) q.craneNums q
  let q := q.broadcastUrgent (.quayStop src q.clock)
  q.post (quayStopEvent src)

/-- A source joins the active sources (R133). -/
def addSource (q : Quay) (src : Source) : Quay :=
  if q.stop.sources.contains src then q
  else if q.stop.sources.isEmpty then q.startStop src
  else q.setStop { q.stop with sources := insertBy (fun a b => a.code ≤ b.code) src q.stop.sources }

/-- The stop state as it stands, queued to a station that joined (R138). -/
def tellStopState (q : Quay) (l : Link) (n : Nat) : Quay :=
  if q.stopInForce then q.sendUrgent l n (.quayStop (q.stop.first.getD .pin) (q.stop.start.getD 0))
  else q.sendUrgent l n .quayResume

end Quay

end Sys2Proof.Machine
end

