-- ==== Sys2Proof/Machine/LinkCore.lean ====
section
/-!
DEFINITION. The quay links' shared operations (chapter 8): what a role's block does when its station leaves or is
lost (R48, R49, R106, R128), the fault score and its thresholds (R144), SILENT (R145), the return to ACTIVE (R146),
the judgement of received frames and of station frames (R140, R141, R168).
-/

namespace Sys2Proof.Machine

namespace Quay

/-! ## A station leaves or is lost -/

/-- A crane's travel ends where it is: the gantry timer stops and the target is discarded; the span stays (R48). -/
def endTravel (q : Quay) (c : Nat) : Quay := q.updCrane c fun x => { x with gantry := .stopped, target := none }

/-- A crane travels under a GANTRY GRANT (R44). -/
def isTravelling (q : Quay) (c : Nat) : Bool := (q.crane? c).any fun x => x.state = .positioning

/-- R48 for a crane station that left, R49 for one made LOST by the link's silence: current move, travel, state. -/
def craneGone (q : Quay) (c : Nat) (lost : Bool) : Quay :=
  let q :=
    match q.currentMove? c with
    | none => q
    | some m =>
      match m.state with
      | .permitted => q.withdraw c (if lost then .link else .leave)
      | .lifting => if lost then q else q.moveFaulted c m .leave
      | _ => q
  let q := if q.isTravelling c then q.endTravel c else q
  q.updCrane c fun x => { x with spreader := .unknown, state := .offline }

/-- R128: an ORDERED gang gives its bay back; a WORKING or IDLE gang is unchanged. -/
def gangGone (q : Quay) (g : Nat) : Quay :=
  match q.gang? g with
  | none => q
  | some x =>
    match x.state, x.bay with
    | .ordered, some b => (q.gangToIdle g none).giveBack b
    | _, _ => q

/-- The block that owns a station's role acts on its leaving or loss; a gate's lane keeps its FIFO and bindings
(R106). -/
def stationGone (q : Quay) (l : Link) (n : Nat) (lost : Bool) : Quay :=
  match (q.station l n).role with
  | some .crane => q.craneGone n lost
  | some .gang => q.gangGone (n - 16)
  | some .gate => q
  | none => q

/-- STATION_LEAVE (R143). -/
def stationLeave (l : Link) (n : Nat) : Posting :=
  { kind := .stationLeave, subject := .station, number := n, detail := [byte (linkNumber l)] }

/-- A station goes OFFLINE: the entry, the event, the role's block (R143; R46, R142 for a refused crane JOIN). -/
def stationOff (q : Quay) (l : Link) (n : Nat) : Quay :=
  ((q.setStation l n .offline).post (stationLeave l n)).stationGone l n false

/-! ## Fault score and link states -/

/-- LINK_SILENT (R145). -/
def linkSilentEvent (l : Link) (lost : Nat) : Posting :=
  { kind := .linkSilent, subject := .link, number := linkNumber l, detail := [byte lost] }

/-- LINK_WARN (R144). -/
def linkWarnEvent (l : Link) (score : Nat) : Posting :=
  { kind := .linkWarn, subject := .link, number := linkNumber l, detail := [byte score] }

/-- LINK_REJOINED (R146). -/
def linkRejoinedEvent (l : Link) : Posting :=
  { kind := .linkRejoined, subject := .link, number := linkNumber l }

/-- Entry to SILENT and the going to REJOIN (R145). Every ONLINE station is made LOST first, then the blocks act for
them in rising station number, which settles the order of the bays given back and of the lapsed permits: the model's
choice (log entry 43). -/
def goSilent (q : Quay) (l : Link) : Quay :=
  let dropped := q.queueOf l
  let online := ((q.link l).stations.filter fun x => x.state = .online).map (·.num)
  let q := q.updLink l fun k => { k with state := .silent }
  let q := q.setPool (q.pool.filter fun f => f.link ≠ l)
  let q := forEach (fun f q => q.post (frameDropped l .silent f.dest f.msg)) dropped q
  let q := forEach (fun n q => q.setStation l n .lost) online q
  let q := forEach (fun n q => q.stationGone l n true) online q
  let q := q.updLink l fun k => { k with state := .rejoin, quiet := 0, complete := false }
  let q := q.post (linkSilentEvent l online.length)
  if dropped.isEmpty then q else q.freedSlots

/-- The score is compared with its thresholds (R144). -/
def judgeScore (q : Quay) (l : Link) : Quay :=
  let k := q.link l
  if k.state.carries = true ∧ Config.silentScore ≤ k.score then q.goSilent l
  else
    match k.state with
    | .active =>
      if Config.warnScore ≤ k.score then
        (q.updLink l fun k => { k with state := .warn }).post (linkWarnEvent l k.score)
      else q
    | .warn => if k.score ≤ Config.calmScore then q.updLink l fun k => { k with state := .active } else q
    | _ => q

/-- Points are added to the score, which stays at 255 (R144). -/
def addScore (q : Quay) (l : Link) (n : Nat) : Quay :=
  (q.updLink l fun k => { k with score := min 255 (k.score + n) }).judgeScore l

/-- A point is taken off the score, down to 0 (R144). -/
def lowerScore (q : Quay) (l : Link) : Quay :=
  (q.updLink l fun k => { k with score := k.score - 1 }).judgeScore l

/-- A link goes from REJOIN to ACTIVE (R146): score 0, LINK_REJOINED; for the crane link every crane's current
move is judged (R73). -/
def goActive (q : Quay) (l : Link) : Quay :=
  let q := q.updLink l fun k => { k with state := .active, score := 0 }
  let q := q.post (linkRejoinedEvent l)
  match l with
  | .crane => q.judgeAll
  | .lane => q

/-- The quiet count of a link in REJOIN is complete (R146). -/
def quietComplete (q : Quay) (l : Link) : Quay :=
  let q := q.updLink l fun k => { k with complete := true }
  if (q.link l).hold then q else q.goActive l

/-! ## Received frames -/

/-- The acknowledgement slot of the last frame received (R140). -/
def setAck (q : Quay) (l : Link) (a : Bool) : Quay := q.updLink l fun k => { k with ack := a }

/-- A malformed reception on a link that receives: not acknowledged, one point (R140, R144). -/
def malformed (q : Quay) (l : Link) : Quay := (q.setAck l false).addScore l 1

/-- The judgement of a frame as a frame (R140): nothing on a link that does not receive; malformed; for another
station; or acknowledged and handed on with its sender and payload. -/
def receive (q : Quay) (l : Link) (f : RxFrame) (handle : Nat → List Byte → Quay → Quay) : Quay :=
  let src := stationNumber f.src
  let dest := stationNumber f.dest
  if !q.linkCarries l then q.setAck l false
  else if src = 0 ∨ src = 31 ∨ 12 < f.payload.length then q.malformed l
  else if dest ≠ 0 ∧ dest ≠ 31 then q.setAck l false
  else handle src f.payload (q.setAck l true)

/-- The judgement of a station frame other than JOIN (R141, steps 2 to 4), and its measuring against its kind
(R168): NOT_JOINED, ROLE, BAD_VALUE for a payload shorter than `read` needs, or the block's own act. -/
def stationFrame {α : Type} (q : Quay) (l : Link) (kind : Nat) (f : RxFrame) (read : List Byte → Option α)
    (act : Nat → α → Quay → Quay) : Quay :=
  q.receive l f fun src payload q =>
    let entry := q.station l src
    if entry.state ≠ .online then q.refuseFrame l src kind .notJoined
    else
      match entry.role with
      | none => q.refuseFrame l src kind .role
      | some r =>
        if r.sends kind then
          match read payload with
          | none => q.refuseFrame l src kind .badValue
          | some ops => act src ops q
        else q.refuseFrame l src kind .role

/-- A kind without payload. -/
def noPayload : List Byte → Option Unit := fun _ => some ()

end Quay

end Sys2Proof.Machine
end

