-- ==== Sys2Proof/Machine/PortCore.lean ====
section
/-!
DEFINITION. The take of a planner request and the placing of its reply (R154, R155, R157, R169): what every request
shares. The owning block's act answers with its state, a reason and the results.
-/

namespace Sys2Proof.Machine

/-- How an owning block answers a request: the state it leaves, OK or a refusal reason, and the results. -/
structure Answer where
  quay    : Quay
  status  : Reason
  results : List Byte

/-- OK, without results. -/
def Quay.ok (q : Quay) : Answer := ⟨q, .ok, []⟩

/-- A refusal; the reply carries the result byte of a shared code (12.1). -/
def Quay.refuse (q : Quay) (r : Reason) : Answer := ⟨q, r, r.resultByte⟩

/-- A step that goes on with a new state of the part; the queue stays. -/
def State.next (s : State) (q : Quay) : Host.Outcome State Fault Refusal := .next { s with quay := q }

/-! Request codes (12.3): 01h to 17h in the order of the introduction's list. -/

namespace Code

def profileRead : Nat := 0x01
def profileWrite : Nat := 0x02
def attach : Nat := 0x03
def planReset : Nat := 0x04
def berthLoad : Nat := 0x05
def orderOpen : Nat := 0x06
def orderEntries : Nat := 0x07
def orderClose : Nat := 0x08
def orderCancel : Nat := 0x09
def moveDefer : Nat := 0x0A
def moveReinstate : Nat := 0x0B
def moveClear : Nat := 0x0C
def craneEnable : Nat := 0x0D
def craneClear : Nat := 0x0E
def gangClear : Nat := 0x0F
def laneOpen : Nat := 0x10
def laneClose : Nat := 0x11
def laneClear : Nat := 0x12
def laneAssign : Nat := 0x13
def quayStop : Nat := 0x14
def quayResume : Nat := 0x15
def linkHold : Nat := 0x16
def tableRead : Nat := 0x17

end Code

/-- The requests allowed in CONFIG (R157). -/
def allowedInConfig (code : Nat) : Bool :=
  code == Code.profileRead || code == Code.profileWrite || code == Code.attach || code == Code.tableRead

namespace Quay

/-- A REQUEST selection met while a request is in hand is taken no further than its transfer code, for which alone
READY rose (R154). -/
def passOver (q : Quay) : Quay := q.updPort fun x => { x with ready := 1 }

/-- The take of a request whose selection carried `n` record bytes (R154): the previous reply is discarded; READY rose
for the transfer code, for each record byte, and once more when the last had been taken (R152); the guard of an
earlier format error has ended (log entry 20). -/
def takeRequest (q : Quay) (n : Nat) : Quay :=
  q.updPort fun x => { x with inHand := true, reply := none, guard := false, ready := n + 2 }

/-- The reply is placed and the request is no longer in hand (R154, R155). -/
def place (q : Quay) (r : Reply) : Quay :=
  q.updPort fun x => { x with inHand := false, reply := some r }

/-- The reply to a request code, with its status and results (12.3). -/
def placeAnswer (code : Nat) (a : Answer) : Quay := a.quay.place (.plain code a.status a.results)

/-- A request that reached the port whole: not taken while one is in hand (R154); BUSY while the loader runs and
STAGE in CONFIG (R157); then the length of its record (R169); then the owning block, through `serve`. -/
def takeWith (q : Quay) (code : Nat) (record : List Byte) (serve : List Byte → Quay → Quay) : Quay :=
  if q.port.inHand then q.passOver
  else
    let q := q.takeRequest (record.length + 1)
    if q.loader.running then placeAnswer code (q.refuse .busy)
    else if q.stage = .config ∧ allowedInConfig code = false then placeAnswer code (q.refuse .stage)
    else
      match recordOperands record with
      | .error r => placeAnswer code (q.refuse r)
      | .ok bytes => serve bytes q

/-- A request with operands: BAD_VALUE where they are shorter than the request needs (R169), else the block's act
and its reply. -/
def request {α : Type} (q : Quay) (code : Nat) (record : List Byte) (read : List Byte → Option α)
    (act : α → Quay → Answer) : Quay :=
  q.takeWith code record fun bytes q =>
    match read bytes with
    | none => placeAnswer code (q.refuse .badValue)
    | some ops => placeAnswer code (act ops q)

end Quay

end Sys2Proof.Machine
end

