-- ==== Sys2Proof/Machine/Berth.lean ====
section
/-!
DEFINITION. BERTH LOAD (R15, R16).
-/

namespace Sys2Proof.Machine

/-- The hatch and lash codes BERTH LOAD admits: hatch ON or OFF, lash LASHED or OPEN (R15). -/
def loadHatch : Nat → Option Hatch
  | 0 => some .on | 1 => some .off | _ => none

def loadLash : Nat → Option Lash
  | 0 => some .lashed | 3 => some .opened | _ => none

/-- The value checks of R15, step 2; the hatch and lash state where they pass. -/
def berthLoadValues (o : BerthLoadOps) : Option (Hatch × Lash) :=
  if 120 < o.deckCap ∨ 200 < o.holdCap ∨ o.deckCap < o.deckCount ∨ o.holdCap < o.holdCount then none
  else
    match loadHatch o.hatch, loadLash o.lash with
    | some .off, some l => if 0 < o.deckCount then none else some (.off, l)
    | some .on, some l => some (.on, l)
    | _, _ => none

/-- The busy checks of R15, step 3. -/
def Quay.bayBusy (q : Quay) (b : Nat) : Bool :=
  (q.claim? b).any (fun c => c.current.isSome) || decide (0 < q.liveMoves b .deck) ||
    decide (0 < q.liveMoves b .hold) ||
    q.gangs.any (fun g => decide ((g.state = .ordered ∨ g.state = .working) ∧ g.bay = some b))

/-- An accepted BERTH LOAD (R16): the stored fields, the dispatch list, the change report. -/
def Quay.loadBay (q : Quay) (o : BerthLoadOps) (h : Hatch) (l : Lash) : Quay :=
  let q := q.updBay o.bay fun x =>
    { x with
      deckCount := o.deckCount, holdCount := o.holdCount, deckCap := o.deckCap, holdCap := o.holdCap
      hatch := h, lash := l }
  (q.leaveList o.bay).judgeBay o.bay

/-- BERTH LOAD (R15, R16). -/
def Quay.berthLoadAct (o : BerthLoadOps) (q : Quay) : Answer :=
  if (q.bay? o.bay).isNone then q.refuse .badBay
  else
    match berthLoadValues o with
    | none => q.refuse .badValue
    | some (h, l) => if q.bayBusy o.bay then q.refuse .bayBusy else (q.loadBay o h l).ok

def execBerthLoad (record : List Byte) (s : State) : Host.Outcome State Fault Refusal :=
  s.next (s.quay.request Code.berthLoad record opsBerthLoad Quay.berthLoadAct)

end Sys2Proof.Machine
end

