-- ==== Sys2Proof/Machine/Cranes.lean ====
section
/-!
DEFINITION. Cranes, spans and travel (chapter 3): CRANE_ENABLE, CRANE_CLEAR, GANTRY_REQ, ARRIVED, SPREADER_SET and
the gantry timer, with the separation test of R45.
-/

namespace Sys2Proof.Machine

/-! ## The separation test (R45) -/

/-- A candidate span for crane `c` fails against crane `d` (R45). -/
def spanFails (sep c : Nat) (cand : Span) (d : Crane) : Bool :=
  match d.span with
  | none => false
  | some sp =>
    if d.num < c then decide (cand.low < sp.high + sep)
    else if c < d.num then decide (sp.low < cand.high + sep)
    else false

/-- Keep, of two cranes, the one nearer to `c` in rail order; at equal distance the one below (R45). -/
def nearerCrane (c : Nat) (best : Option Crane) (d : Crane) : Option Crane :=
  match best with
  | none => some d
  | some b => if bayDistance d.num c < bayDistance b.num c then some d else some b

namespace Quay

/-- The crane that blocks a candidate span, the nearest where several do; none where the span passes (R45). -/
def blockingCrane? (q : Quay) (c : Nat) (cand : Span) : Option Crane :=
  (q.cranes.filter fun d => spanFails (q.item Item.separation) c cand d).foldl (nearerCrane c) none

/-- The span shrinks to one bay and the bay field follows; the travel ends (R47, R52, R53, R56). -/
def standAt (q : Quay) (c b : Nat) : Quay :=
  q.updCrane c fun x => { x with span := some ⟨b, b⟩, bay := some b, target := none, gantry := .stopped }

/-! ## CRANE ENABLE (R59) -/

/-- CRANE ENABLE judged and taken (R59). That BAD_CRANE is judged before BAD_VALUE, where both apply, is the model's
choice (log entry 44). -/
def craneEnableAct (ops : Nat × Nat) (q : Quay) : Answer :=
  if (q.crane? ops.1).isNone then q.refuse .badCrane
  else if 1 < ops.2 then q.refuse .badValue
  else (q.writeEnable ops.1 (decide (ops.2 = 1))).ok

/-! ## CRANE CLEAR (R56) -/

/-- The checks of R56 from CRANE_STATE on. -/
def craneClearBar (q : Quay) (cr : Crane) (b : Nat) : Option Reason :=
  if cr.faultMark = false then some .craneState
  else if (cr.active.any fun slot => (q.movesOf slot).any fun m => m.state = .faulted) then some .moveFaulted
  else if (q.currentMove? cr.num).any (fun m => m.state = .lifting) then some .inFlight
  else if (q.blockingCrane? cr.num ⟨b, b⟩).isSome then some .span
  else none

/-- An accepted CRANE CLEAR (R56, steps 1 to 5). -/
def clearCrane (q : Quay) (c b : Nat) : Quay :=
  let q := q.standAt c b
  let q := q.updCrane c fun x => { x with faultMark := false }
  if q.craneOnline c then q.takeUp c else q.judge c

def craneClearAct (ops : Nat × Nat) (q : Quay) : Answer :=
  match q.crane? ops.1 with
  | none => q.refuse .badCrane
  | some cr =>
    if (q.bay? ops.2).isNone then q.refuse .badBay
    else
      match q.craneClearBar cr ops.2 with
      | some r => q.refuse r
      | none => (q.clearCrane ops.1 ops.2).ok

/-! ## GANTRY REQ (R50, R51) -/

/-- The travel span from a bay to a target (R50). -/
def travelSpan (b t : Nat) : Span := ⟨min b t, max b t⟩

/-- The crane may not ask for travel now (R50, check 3). -/
def travelBusy (q : Quay) (cr : Crane) : Bool :=
  decide (cr.state = .positioning ∨ cr.state = .fault) || (q.currentMove? cr.num).any (·.inFlight)

/-- The grant of travel (R51, steps 1 to 4). The crane is no longer WORKING, so the report of R42 grants nothing. -/
def grantTravel (q : Quay) (c t : Nat) (sp : Span) : Quay :=
  let q := q.updCrane c fun x =>
    { x with
      span := some sp, target := some t, state := .positioning, gantry := .running (q.item Item.tGantry) }
  q.enqueue .crane c (.gantryGrant t sp.low sp.high)

/-- GANTRY REQ judged (R50); a request that passes and finds no slot is dropped unanswered (R51). A crane whose
station is ONLINE holds a bay (R42). -/
def gantryReqAct (c t : Nat) (q : Quay) : Quay :=
  match q.crane? c with
  | none => q
  | some cr =>
    if (q.bay? t).isNone then q.refuseFrame .crane c RxKind.gantryReq .badBay
    else if q.stopInForce then q.refuseFrame .crane c RxKind.gantryReq .stopped
    else if q.travelBusy cr then q.refuseFrame .crane c RxKind.gantryReq .busy
    else
      match cr.bay with
      | none => q
      | some b =>
        match q.blockingCrane? c (travelSpan b t) with
        | some d => q.refuseFrame .crane c RxKind.gantryReq .span d.num
        | none => if q.routineSlot .crane then q.grantTravel c t (travelSpan b t) else q

/-! ## ARRIVED (R52, R53) -/

/-- GANTRY_SHORT (R52). -/
def gantryShort (c b t : Nat) : Posting :=
  { kind := .gantryShort, subject := .crane, number := c, detail := [byte b, byte t] }

/-- A bay lies inside a span. -/
def inSpan (b : Nat) (sp : Option Span) : Bool :=
  match sp with
  | some x => decide (x.low ≤ b ∧ b ≤ x.high)
  | none => false

/-- ARRIVED refused with SPAN, and the crane's fault (R52, R53). -/
def arrivedOutside (q : Quay) (c : Nat) : Quay :=
  (q.refuseFrame .crane c RxKind.arrived .span).enterFault c (craneFaultEvent c 1)

/-- ARRIVED ends the travel at a bay inside the travel span (R52). -/
def arrivedInside (q : Quay) (cr : Crane) (b : Nat) : Quay :=
  let q := q.standAt cr.num b
  let q := if cr.target = some b then q else q.post (gantryShort cr.num b (cr.target.getD 0))
  q.takeUp cr.num

def arrivedAct (c b : Nat) (q : Quay) : Quay :=
  match q.crane? c with
  | none => q
  | some cr =>
    match cr.state with
    | .positioning =>
      if inSpan b cr.span then q.arrivedInside cr b
      else (q.arrivedOutside c).updCrane c fun x => { x with gantry := .stopped, target := none }
    | .idle | .working => if cr.bay = some b then q else q.arrivedOutside c
    | .fault =>
      if inSpan b cr.span then
        q.updCrane c fun x => { x with span := some ⟨b, b⟩, bay := some b, target := none }
      else q.arrivedOutside c
    | .offline => q

/-! ## SPREADER SET (R57) -/

def spreaderSetAct (c mode : Nat) (q : Quay) : Quay :=
  match SpreaderMode.ofCode mode with
  | none => q.refuseFrame .crane c RxKind.spreaderSet .badValue
  | some m => (q.updCrane c fun x => { x with spreader := m }).judge c

/-! ## The gantry timer (R54) -/

/-- GANTRY_OVERDUE (R54). -/
def gantryOverdue (c t : Nat) : Posting :=
  { kind := .gantryOverdue, subject := .crane, number := c, detail := [byte t] }

/-- The expiry of a running gantry timer of a crane in POSITIONING (R54): span and target are kept. -/
def gantryExpires (q : Quay) (cr : Crane) : Quay :=
  (q.updCrane cr.num fun x => { x with gantry := .stopped }).enterFault cr.num
    (gantryOverdue cr.num (cr.target.getD 0))

end Quay

def execCraneEnable (record : List Byte) (s : State) : Host.Outcome State Fault Refusal :=
  s.next (s.quay.request Code.craneEnable record ops8x2 Quay.craneEnableAct)

def execCraneClear (record : List Byte) (s : State) : Host.Outcome State Fault Refusal :=
  s.next (s.quay.request Code.craneClear record ops8x2 Quay.craneClearAct)

def execGantryReq (f : RxFrame) (s : State) : Host.Outcome State Fault Refusal :=
  s.next (s.quay.stationFrame .crane RxKind.gantryReq f ops8 Quay.gantryReqAct)

def execArrived (f : RxFrame) (s : State) : Host.Outcome State Fault Refusal :=
  s.next (s.quay.stationFrame .crane RxKind.arrived f ops8 Quay.arrivedAct)

def execSpreaderSet (f : RxFrame) (s : State) : Host.Outcome State Fault Refusal :=
  s.next (s.quay.stationFrame .crane RxKind.spreaderSet f ops8 Quay.spreaderSetAct)

def execGantryTimerExpiry (crane : Nat) (s : State) : Host.Outcome State Fault Refusal :=
  s.next
    (match s.quay.crane? crane with
     | some cr =>
       if cr.gantry.isRunning = true ∧ cr.state = .positioning then s.quay.gantryExpires cr else s.quay
     | none => s.quay)

end Sys2Proof.Machine
end

