-- ==== Sys2Proof/Machine/Gangs.lean ====
section
/-!
DEFINITION. Lashing gangs (chapter 6): GANG_CLEAR, LASH_START, LASH_DONE, LASH_DECLINE, the lash timer.
-/

namespace Sys2Proof.Machine

namespace Quay

/-- The gang of a station on the crane link. -/
def gangOfStation (n : Nat) : Nat := n - 16

/-- BAY_OPEN and BAY_LASHED (R116). -/
def bayOpen (b : Nat) : Posting := { kind := .bayOpen, subject := .bay, number := b }
def bayLashed (b : Nat) : Posting := { kind := .bayLashed, subject := .bay, number := b }

/-- LASH_DECLINED (R125). -/
def lashDeclined (g b : Nat) (t : LashTask) : Posting :=
  { kind := .lashDeclined, subject := .gang, number := g, detail := [byte b, byte t.code] }

/-- LASH_OVERDUE: 0 ORDERED, 1 WORKING (R126, 12.3). -/
def lashOverdue (g b state : Nat) : Posting :=
  { kind := .lashOverdue, subject := .gang, number := g, detail := [byte b, byte state] }

/-- The state of a bay while a gang works a task (R122). -/
def workingLash : LashTask → Lash
  | .unlash => .unlashing
  | .lash => .lashing

/-- The state of a bay whose task waits for a gang (R129). -/
def dueLash : LashTask → Lash
  | .unlash => .unlashDue
  | .lash => .lashDue

/-! ## LASH START (R122) -/

/-- The work starts: the gang becomes WORKING, its timer runs on, the bay's state advances and is reported. -/
def startWork (q : Quay) (g b : Nat) (t : LashTask) : Quay :=
  let q := q.updGang g fun x => { x with state := .working }
  (q.setLash b (workingLash t)).judgeBay b

def lashStartAct (src b : Nat) (q : Quay) : Quay :=
  let g := gangOfStation src
  match q.gang? g with
  | none => q
  | some x =>
    match x.state with
    | .working => if x.bay = some b then q else q.refuseFrame .crane src RxKind.lashStart .gangState
    | .idle => q.refuseFrame .crane src RxKind.lashStart .gangState
    | .ordered =>
      if x.bay ≠ some b then q.refuseFrame .crane src RxKind.lashStart .wrongBay
      else if (q.inFlightMove? b).isSome then q.sendRoutine .crane src (.lashWait b)
      else q.startWork g b (x.task.getD .unlash)

/-! ## LASH DONE (R124, R116) -/

/-- The Berth Table advances the bay at LASH DONE, with the consequences of R116. -/
def advanceBay (q : Quay) (b : Nat) : Quay :=
  match q.bay? b with
  | none => q
  | some x =>
    match x.lash with
    | .unlashing =>
      let q := ((q.setLash b .opened).post (bayOpen b)).judgeBay b
      if q.liveMoves b .deck = 0 then q.endOfDeckWork b x.deckCount else q
    | .lashing =>
      let q := ((q.setLash b .lashed).post (bayLashed b)).judgeBay b
      if 0 < q.liveMoves b .deck then q.unlashTrigger b else q
    | .lashed | .unlashDue | .opened | .lashDue => q

/-- LASH DONE of a WORKING gang for its bay (R124, steps 1 to 5). -/
def finishWork (q : Quay) (g b : Nat) : Quay :=
  let q := q.updGang g fun x => { x with timer := .stopped }
  let q := q.advanceBay b
  let q := q.gangToIdle g (some b)
  (q.judgeBay b).makeDispatch

def lashDoneAct (src b : Nat) (q : Quay) : Quay :=
  let g := gangOfStation src
  match q.gang? g with
  | none => q
  | some x =>
    match x.state with
    | .working =>
      if x.bay = some b then q.finishWork g b else q.refuseFrame .crane src RxKind.lashDone .wrongBay
    | .idle => if x.lastBay = b then q else q.refuseFrame .crane src RxKind.lashDone .gangState
    | .ordered => q.refuseFrame .crane src RxKind.lashDone .gangState

/-! ## LASH DECLINE (R125) -/

/-- LASH DECLINE of an ORDERED gang for its bay (R125, steps 1 to 4). -/
def declineWork (q : Quay) (g b : Nat) (t : LashTask) : Quay :=
  ((q.gangToIdle g none).post (lashDeclined g b t)).giveBack b

def lashDeclineAct (src b : Nat) (q : Quay) : Quay :=
  let g := gangOfStation src
  match q.gang? g with
  | none => q
  | some x =>
    match x.state with
    | .ordered =>
      if x.bay = some b then q.declineWork g b (x.task.getD .unlash)
      else q.refuseFrame .crane src RxKind.lashDecline .wrongBay
    | .idle | .working => q.refuseFrame .crane src RxKind.lashDecline .gangState

/-! ## The lash timer (R126) -/

/-- The lash timer of a gang expires (R126). -/
def lashExpires (q : Quay) (g : Gang) : Quay :=
  let b := g.bay.getD 0
  match g.state with
  | .ordered =>
    let q := (q.sendLashCancel g).gangToIdle g.num none
    (q.post (lashOverdue g.num b 0)).giveBack b
  | .working => (q.updGang g.num fun x => { x with timer := .stopped }).post (lashOverdue g.num b 1)
  | .idle => q

/-! ## GANG CLEAR (R129) -/

/-- GANG CLEAR of a WORKING gang (R129, steps 1 to 6). -/
def clearGang (q : Quay) (x : Gang) (b : Nat) (t : LashTask) : Quay :=
  let q := if q.gangOnline x.num then q.sendLashCancel x else q
  let q := (q.setLash b (dueLash t)).judgeBay b
  let q := q.gangToIdle x.num (some b)
  (q.judgeBay b).giveBack b

def gangClearAct (g : Nat) (q : Quay) : Answer :=
  match q.gang? g with
  | none => q.refuse .badGang
  | some x =>
    if x.state = .working then (q.clearGang x (x.bay.getD 0) (x.task.getD .unlash)).ok else q.refuse .gangState

end Quay

def execGangClear (record : List Byte) (s : State) : Host.Outcome State Fault Refusal :=
  s.next (s.quay.request Code.gangClear record ops8 Quay.gangClearAct)

def execLashStart (f : RxFrame) (s : State) : Host.Outcome State Fault Refusal :=
  s.next (s.quay.stationFrame .crane RxKind.lashStart f ops8 Quay.lashStartAct)

def execLashDone (f : RxFrame) (s : State) : Host.Outcome State Fault Refusal :=
  s.next (s.quay.stationFrame .crane RxKind.lashDone f ops8 Quay.lashDoneAct)

def execLashDecline (f : RxFrame) (s : State) : Host.Outcome State Fault Refusal :=
  s.next (s.quay.stationFrame .crane RxKind.lashDecline f ops8 Quay.lashDeclineAct)

def execLashTimerExpiry (gang : Nat) (s : State) : Host.Outcome State Fault Refusal :=
  s.next
    (match s.quay.gang? gang with
     | some g => if g.timer.isRunning then s.quay.lashExpires g else s.quay
     | none => s.quay)

end Sys2Proof.Machine
end

