-- ==== Sys2Proof/Machine/Lanes.lean ====
section
/-!
DEFINITION. Truck lanes (chapter 5): LANE_OPEN, LANE_CLOSE, LANE_CLEAR, LANE_ASSIGN, TRUCK_ENTER, TRUCK_SET,
TRUCK_EXIT, SPOT, the OBS inputs, the pulse, lockout and window timers.
-/

namespace Sys2Proof.Machine

namespace Quay

/-! ## LANE OPEN, LANE CLEAR, the lockout timer (R98) -/

/-- A lane goes to OPENING with its lockout timer, or to OPEN when OBS_LOCKOUT is 0 (R98); the change is reported
and binding evaluated (R97). -/
def openLane (q : Quay) (p : Nat) : Quay :=
  let n := q.item Item.obsLockout
  let q := q.updLane p fun l =>
    if n = 0 then { l with state := .opened } else { l with state := .opening, lockout := .running n }
  q.laneChanged p

def laneOpenAct (n : Nat) (q : Quay) : Answer :=
  match q.laneByLogical? n with
  | none => q.refuse .badLane
  | some l =>
    match l.state with
    | .closed => (q.openLane l.phys).ok
    | .opening | .opened | .caution => q.ok
    | .faulted | .disabled => q.refuse .laneState

def laneClearAct (n : Nat) (q : Quay) : Answer :=
  match q.laneByLogical? n with
  | none => q.refuse .badLane
  | some l => if l.state = .faulted then (q.openLane l.phys).ok else q.refuse .laneState

/-- The lockout timer of an OPENING lane expires (R98). -/
def lockoutExpires (q : Quay) (l : Lane) : Quay :=
  (q.updLane l.phys fun x => { x with state := .opened, lockout := .stopped }).laneChanged l.phys

/-! ## LANE CLOSE and LANE ASSIGN (R99, R113) -/

/-- The move a lane's bound truck, its head, is bound to (R95, R102). -/
def laneMove? (q : Quay) (l : Lane) : Option Move := (l.fifo.head?.bind (·.bound)).bind q.move?

/-- The lane's bound truck is bound to a move in PERMITTED, LIFTING or FAULTED (R99, R113). -/
def laneInUse (q : Quay) (l : Lane) : Bool :=
  (q.laneMove? l).any fun m => m.inFlight || m.state = .faulted

/-- A MATCHED move of the lane's bound truck is unbound and staged anew (R99, R113; R71). -/
def freeLaneMove (q : Quay) (l : Lane) : Quay :=
  match q.laneMove? l with
  | some m => if m.state = .matched then q.unbindAndRestage m else q
  | none => q

/-- A lane in OPENING, OPEN, CAUTION or FAULTED goes to CLOSED (R99). -/
def closeLane (q : Quay) (l : Lane) : Quay :=
  let q := q.updLane l.phys fun x => { x with state := .closed, lockout := .stopped, window := .stopped }
  (q.freeLaneMove l).laneChanged l.phys

def laneCloseAct (n : Nat) (q : Quay) : Answer :=
  match q.laneByLogical? n with
  | none => q.refuse .badLane
  | some l =>
    if q.laneInUse l then q.refuse .inUse
    else if l.state = .closed then q.ok
    else (q.closeLane l).ok

/-- The crane a LANE ASSIGN names: 0 for none (12.3). -/
def assignee (c : Nat) : Option Nat := if c = 0 then none else some c

/-- An acting LANE ASSIGN (R113, steps 1 to 4). -/
def assignLane (q : Quay) (l : Lane) (c : Nat) : Quay :=
  let q := q.freeLaneMove l
  let q := q.updLane l.phys fun x =>
    { x with crane := assignee c, fifo := x.fifo.map fun t => { t with misorder := false } }
  if c = 0 then q else q.evalBinding c

/-- LANE ASSIGN judged (R113). Naming the crane already assigned has no effect; none always acts. -/
def laneAssignAct (ops : Nat × Nat) (q : Quay) : Answer :=
  let c := ops.2
  match q.laneByLogical? ops.1 with
  | none => q.refuse .badLane
  | some l =>
    if c ≠ 0 ∧ (q.crane? c).isNone = true then q.refuse .badCrane
    else if c ≠ 0 ∧ l.crane ≠ some c ∧ Config.laneLimit ≤ (q.lanesOf c).length then q.refuse .laneLimit
    else if c ≠ 0 ∧ l.crane = some c then q.ok
    else if q.laneInUse l then q.refuse .inUse
    else (q.assignLane l c).ok

/-! ## Trucks (R103 to R105) -/

/-- The value check of TRUCK ENTER (R103, order 1). -/
def TruckEnterOps.bad (o : TruckEnterOps) : Bool :=
  decide (o.tag = 0) || (decide (o.load = .laden) && o.box.isNone) ||
    (o.partner.isSome && decide (o.capacity = .c20))

/-- The truck record a TRUCK ENTER appends (R103). -/
def newTruck (o : TruckEnterOps) : Truck :=
  { tag := o.tag, load := o.load, capacity := o.capacity, box := o.box, partner := o.partner, set := false
    bound := none, misorder := false }

/-- The checks of R103: the first reason that applies. -/
def truckEnterBar (q : Quay) (l : Lane) (o : TruckEnterOps) : Option Reason :=
  if TruckEnterOps.bad o then some .badValue
  else if l.state = .disabled ∨ l.state = .closed ∨ l.state = .faulted then some .laneClosed
  else if Config.fifoLimit ≤ l.fifo.length then some .laneFull
  else if (q.laneOfTag? o.tag).isSome then some .tagDup
  else none

/-- A taken TRUCK ENTER (R103): the truck joins the tail; alone, it is made head (R102). -/
def enterTruck (q : Quay) (l : Lane) (o : TruckEnterOps) : Quay :=
  let q := q.updLane l.phys fun x => { x with fifo := x.fifo ++ [newTruck o] }
  if l.fifo.isEmpty then q.laneChanged l.phys else q

def truckEnterAct (p : Nat) (o : TruckEnterOps) (q : Quay) : Quay :=
  match q.lane? p with
  | none => q
  | some l =>
    match q.truckEnterBar l o with
    | some r => q.refuseFrame .lane p RxKind.truckEnter r
    | none => q.enterTruck l o

/-- A taken TRUCK SET (R104, steps 1 to 3). -/
def setTruck (q : Quay) (l : Lane) (tag : Word16) : Quay :=
  let q := q.updTruck tag fun t => { t with set := true }
  let q := q.judgeLane l.phys
  match l.crane with
  | some c => q.sendCrane c (.truckPosition l.logical tag)
  | none => q

def truckSetAct (p : Nat) (tag : Word16) (q : Quay) : Quay :=
  match q.lane? p with
  | none => q
  | some l =>
    if l.fifo.head?.any fun t => t.tag = tag then q.setTruck l tag
    else q.refuseFrame .lane p RxKind.truckSet .order

/-- A bound truck leaves (R105, steps 1 to 4): the permit of a PERMITTED move is withdrawn with cause TRUCK (R77, R78),
the truck unbound, the move staged anew, the truck record removed. That is the cause's own course, step 6 of R77; a
pending preemption and the judgement, its steps 7 and 8, follow it and find the truck gone (log entry 12). -/
def leaveBound (q : Quay) (m : Move) (p : Nat) (tag : Word16) : Quay :=
  if m.state = .permitted then
    (((q.withdrawCore m.crane m .truck).unbindAndRestage m).removeTruck p tag).afterWithdraw m.crane
  else if m.state = .matched then (q.unbindAndRestage m).removeTruck p tag
  else q.removeTruck p tag

/-- TRUCK EXIT judged for the lane the tag stands in (R105). -/
def truckExitFrom (q : Quay) (p : Nat) (l : Lane) (tag : Word16) : Quay :=
  if l.phys ≠ p then q.refuseFrame .lane p RxKind.truckExit .wrongLane
  else
    match ((l.fifo.find? fun t => t.tag = tag).bind (·.bound)).bind q.move? with
    | some m =>
      if m.state = .lifting ∨ m.state = .faulted then q.refuseFrame .lane p RxKind.truckExit .hold
      else q.leaveBound m p tag
    | none => q.removeTruck p tag

def truckExitAct (p : Nat) (tag : Word16) (q : Quay) : Quay :=
  match q.laneOfTag? tag with
  | none => q
  | some l => q.truckExitFrom p l tag

/-! ## SPOT (R114) -/

/-- The truck of a move that SPOT may speak for: a non-hatch move in MATCHED, PERMITTED or LIFTING (R114). -/
def spotTruck? (q : Quay) (c : Nat) : Option TruckRef :=
  match q.currentMove? c with
  | some m => if m.isHatch = false ∧ (m.state = .matched ∨ m.inFlight = true) then m.truck else none
  | none => none

/-- The code goes on to the gate of the truck's lane, where that gate is ONLINE (R114). -/
def forwardSpot (q : Quay) (code : Byte) (t : TruckRef) : Quay :=
  match q.laneByLogical? t.lane with
  | some l =>
    if q.gateOnline l.phys then q.sendRoutine .lane l.phys (.spotToGate code t.lane t.tag) else q
  | none => q

def spotAct (c : Nat) (code : Byte) (q : Quay) : Quay :=
  match q.spotTruck? c with
  | some t => q.forwardSpot code t
  | none => q.refuseFrame .crane c RxKind.spot .noTruck

/-! ## The obstruction inputs (R100, R101) -/

/-- The level of an OBS input. -/
def obsActive (q : Quay) (p : Nat) : Bool := q.pins.obs.getD (p - 1) false

/-- The input takes a level. -/
def setObs (q : Quay) (p : Nat) (v : Bool) : Quay :=
  q.updPins fun x => { x with obs := x.obs.set (p - 1) v }

/-- The qualifier of a lane in IDLE goes to TIMING (R100). -/
def startTiming (q : Quay) (p : Nat) : Quay :=
  let n := q.item Item.obsMin
  q.updLane p fun l =>
    if l.qualifier = .idle then { l with qualifier := .timing, pulse := .running n } else l

/-- The qualifier of a lane in TIMING goes to IDLE (R100). -/
def stopTiming (q : Quay) (p : Nat) : Quay :=
  q.updLane p fun l => if l.qualifier = .timing then { l with qualifier := .idle, pulse := .stopped } else l

/-- LANE_CAUTION (R101). -/
def laneCaution (l : Lane) : Posting := { kind := .laneCaution, subject := .lane, number := l.logical }

/-- LANE_FAULT, with the tag of the bound truck, if any (R101). -/
def laneFault (l : Lane) (tag : Option Word16) : Posting :=
  { kind := .laneFault, subject := .lane, number := l.logical, detail := [byte (bitAt 0 tag.isSome)] ++ opt16 tag }

/-- LANE_FAULT_IN_LIFT (R101). -/
def laneFaultInLift (l : Lane) (moveNum : Nat) : Posting :=
  { kind := .laneFaultInLift, subject := .lane, number := l.logical, detail := be16n moveNum }

/-- OPEN goes to CAUTION (R101). -/
def laneToCaution (q : Quay) (l : Lane) : Quay :=
  let n := q.item Item.obsWindow
  let q := q.updLane l.phys fun x => { x with state := .caution, window := .running n }
  (q.post (laneCaution l)).laneChanged l.phys

/-- What a lane's fault does to the move of its bound truck: a permit is withdrawn with cause LANE, a lift runs on and
is reported (R101, steps 3 and 4). -/
def laneFaultMove (q : Quay) (l : Lane) : Quay :=
  match q.laneMove? l with
  | some m =>
    if m.state = .permitted then q.withdraw m.crane .lane
    else if m.state = .lifting then q.post (laneFaultInLift l m.num)
    else q
  | none => q

/-- CAUTION goes to FAULTED (R101, steps 1 to 5). -/
def laneToFaulted (q : Quay) (l : Lane) : Quay :=
  let bound := l.fifo.head?.bind fun t => if t.bound.isSome then some t.tag else none
  let q := q.updLane l.phys fun x => { x with state := .faulted, window := .stopped }
  ((q.post (laneFault l bound)).laneFaultMove l).laneChanged l.phys

/-- An obstruction event acts by the lane's state (R101). -/
def obstruction (q : Quay) (l : Lane) : Quay :=
  match l.state with
  | .opened => q.laneToCaution l
  | .caution => q.laneToFaulted l
  | .disabled | .closed | .opening | .faulted => q

/-- The window timer of a CAUTION lane expires (R101). -/
def windowExpires (q : Quay) (l : Lane) : Quay :=
  (q.updLane l.phys fun x => { x with state := .opened, window := .stopped }).laneChanged l.phys

end Quay

def execLaneOpen (record : List Byte) (s : State) : Host.Outcome State Fault Refusal :=
  s.next (s.quay.request Code.laneOpen record ops8 Quay.laneOpenAct)

def execLaneClose (record : List Byte) (s : State) : Host.Outcome State Fault Refusal :=
  s.next (s.quay.request Code.laneClose record ops8 Quay.laneCloseAct)

def execLaneClear (record : List Byte) (s : State) : Host.Outcome State Fault Refusal :=
  s.next (s.quay.request Code.laneClear record ops8 Quay.laneClearAct)

def execLaneAssign (record : List Byte) (s : State) : Host.Outcome State Fault Refusal :=
  s.next (s.quay.request Code.laneAssign record ops8x2 Quay.laneAssignAct)

def execTruckEnter (f : RxFrame) (s : State) : Host.Outcome State Fault Refusal :=
  s.next (s.quay.stationFrame .lane RxKind.truckEnter f opsTruckEnter Quay.truckEnterAct)

def execTruckSet (f : RxFrame) (s : State) : Host.Outcome State Fault Refusal :=
  s.next (s.quay.stationFrame .lane RxKind.truckSet f opsTag Quay.truckSetAct)

def execTruckExit (f : RxFrame) (s : State) : Host.Outcome State Fault Refusal :=
  s.next (s.quay.stationFrame .lane RxKind.truckExit f opsTag Quay.truckExitAct)

def execSpot (f : RxFrame) (s : State) : Host.Outcome State Fault Refusal :=
  s.next (s.quay.stationFrame .crane RxKind.spot f opsCode Quay.spotAct)

/-- OBS_p goes active (R100). An input that is active already makes no change of level. -/
def execObsActivation (lane : Nat) (s : State) : Host.Outcome State Fault Refusal :=
  let q := s.quay
  s.next (if q.obsActive lane then q else (q.setObs lane true).startTiming lane)

/-- OBS_p returns inactive (R100). -/
def execObsInactive (lane : Nat) (s : State) : Host.Outcome State Fault Refusal :=
  let q := s.quay
  s.next (if q.obsActive lane then (q.setObs lane false).stopTiming lane else q)

/-- The pulse timer of a TIMING qualifier expires (R100): the qualifier goes to IDLE, one obstruction event. -/
def execPulseTimerExpiry (lane : Nat) (s : State) : Host.Outcome State Fault Refusal :=
  let q := s.quay
  s.next
    (match q.lane? lane with
     | some l =>
       if l.qualifier = .timing ∧ l.pulse.isRunning = true then (q.stopTiming lane).obstruction l else q
     | none => q)

def execLockoutTimerExpiry (lane : Nat) (s : State) : Host.Outcome State Fault Refusal :=
  let q := s.quay
  s.next
    (match q.lane? lane with
     | some l => if l.state = .opening ∧ l.lockout.isRunning = true then q.lockoutExpires l else q
     | none => q)

def execWindowTimerExpiry (lane : Nat) (s : State) : Host.Outcome State Fault Refusal :=
  let q := s.quay
  s.next
    (match q.lane? lane with
     | some l => if l.state = .caution ∧ l.window.isRunning = true then q.windowExpires l else q
     | none => q)

end Sys2Proof.Machine
end

