-- ==== Sys2Proof/Machine/Lifts.lean ====
section
/-!
DEFINITION. Lifts and their ends (chapter 4): LIFT_START, LIFT_DONE, LIFT_FAIL, the acceptance, lift and truck wait
timers, and MOVE_CLEAR_DONE, MOVE_CLEAR_RETRY, MOVE_CLEAR_CANCEL.
-/

namespace Sys2Proof.Machine

/-- A move holds a grant stamp. -/
def Move.hasStamp (m : Move) (stamp : Word16) : Bool := decide (m.stamp = some stamp)

/-- LIFT ABORT, urgent, to a crane (R79). -/
def Quay.liftAbort (q : Quay) (c : Nat) (stamp : Word16) (kind : Nat) (why : Reason) : Quay :=
  q.sendUrgent .crane c (.liftAbort stamp kind why)

/-! ## LIFT START (R81) -/

/-- The lift starts: the acceptance timer stops, the move becomes LIFTING, the lift timer starts with T_LIFT. -/
def Quay.startLift (q : Quay) (c : Nat) (m : Move) : Quay :=
  let q := q.updCrane c fun x => { x with accept := .stopped, lift := .running (q.item Item.tLift) }
  q.updMove m.num fun x => { x with state := .lifting }

/-- A FAULTED move of the crane's active order has this stamp (R81). -/
def Quay.faultedStamp (q : Quay) (c : Nat) (stamp : Word16) : Bool :=
  match q.activeOrder? c with
  | some o => (q.movesOf o.slot).any fun m => decide (m.state = .faulted) && m.hasStamp stamp
  | none => false

def Quay.liftStartAct (c : Nat) (stamp : Word16) (q : Quay) : Quay :=
  let other :=
    if q.faultedStamp c stamp then q.liftAbort c stamp RxKind.liftStart .notPermitted
    else q.liftAbort c stamp RxKind.liftStart .stale
  match q.currentMove? c with
  | some m =>
    if m.state = .permitted ∧ m.hasStamp stamp = true then q.startLift c m
    else if m.state = .lifting ∧ m.hasStamp stamp = true then q
    else other
  | none => other

def execLiftStart (f : RxFrame) (s : State) : Host.Outcome State Fault Refusal :=
  s.next (s.quay.stationFrame .crane RxKind.liftStart f opsTag Quay.liftStartAct)

/-! ## LIFT DONE (R83, R84) -/

/-- A box is one of two. -/
def isOneOf (x : Word32) (a b : Option Word32) : Bool := decide (a = some x) || decide (b = some x)

/-- Which of a pair finds no equal among the other side's boxes: 0 the box, 1 the partner box, 2 both (12.3). -/
def unmatched (box partner a b : Option Word32) : Option Nat :=
  match box.any (fun x => !isOneOf x a b), partner.any (fun x => !isOneOf x a b) with
  | false, false => none
  | true, false => some 0
  | false, true => some 1
  | true, true => some 2

/-- The comparison of a twin pair (R84): two pairs agree in either order, and a disagreement names the recorded
boxes that were not read, or, where each was, the places that differ; where one side has fewer boxes, the boxes of
that side are looked for in the other (log entry 23). -/
def twinMismatch (box partner readBox readPartner : Option Word32) : Option Nat :=
  if (boxList box partner).isEmpty ∨ (boxList readBox readPartner).isEmpty then none
  else if (boxList readBox readPartner).length < (boxList box partner).length then
    unmatched readBox readPartner box partner
  else if (boxList box partner).length < 2 then unmatched box partner readBox readPartner
  else if (box = readBox ∧ partner = readPartner) ∨ (box = readPartner ∧ partner = readBox) then none
  else
    match unmatched box partner readBox readPartner with
    | some d => some d
    | none => if box ≠ readBox then some 0 else some 1

/-- The comparison of read boxes with the move record (R84); hatch moves are not compared. -/
def boxMismatch (m : Move) (readBox readPartner : Option Word32) : Option Nat :=
  match m.cls with
  | .single20 | .single40 =>
    match m.box, readBox with
    | some a, some b => if a = b then none else some 0
    | _, _ => none
  | .twin20 => twinMismatch m.box m.partner readBox readPartner
  | .cover => none

/-- BOX_MISMATCH (R84, 12.3). -/
def boxMismatchEvent (m : Move) (d : Nat) : Posting :=
  { kind := .boxMismatch, subject := .move, number := m.num, detail := [byte d], stamp := m.stamp }

/-- MOVE_DONE: 0 LIFT, 1 CLEAR (R83, R90, 12.3). -/
def moveDoneEvent (m : Move) (path : Nat) : Posting :=
  { kind := .moveDone, subject := .move, number := m.num, detail := [byte path], stamp := m.stamp }

/-- Post the disagreement, if there is one. -/
def Quay.postMismatch (q : Quay) (m : Move) (d : Option Nat) : Quay :=
  match d with
  | some n => q.post (boxMismatchEvent m n)
  | none => q

/-- The lift of a move is done (R83, steps 1 to 9). A DISCHARGE truck takes each read box, or the recorded one where
it was not read (R84). -/
def Quay.liftEnds (q : Quay) (c : Nat) (m : Move) (readBox readPartner : Option Word32) : Quay :=
  let q := q.updCrane c fun x => { x with lift := .stopped }
  let q := q.postMismatch m (boxMismatch m readBox readPartner)
  let q := q.releaseDone m (readBox <|> m.box) (readPartner <|> m.partner)
  let q := q.updCrane c fun x => { x with current := none }
  let q := q.moveEndsChecked m true
  let q := q.post (moveDoneEvent m 0)
  q.afterMove c

def Quay.liftDoneAct (c : Nat) (ops : Word16 × Option Word32 × Option Word32) (q : Quay) : Quay :=
  match q.currentMove? c with
  | some m =>
    if m.state = .lifting ∧ m.hasStamp ops.1 = true then q.liftEnds c m ops.2.1 ops.2.2
    else q.liftAbort c ops.1 RxKind.liftDone .stale
  | none => q.liftAbort c ops.1 RxKind.liftDone .stale

def execLiftDone (f : RxFrame) (s : State) : Host.Outcome State Fault Refusal :=
  s.next (s.quay.stationFrame .crane RxKind.liftDone f opsLiftDone Quay.liftDoneAct)

/-! ## LIFT FAIL (R85, R86) -/

/-- LIFT_FAILED: the reason and the new fail count (R85). -/
def liftFailedEvent (m : Move) (reason fails : Nat) : Posting :=
  { kind := .liftFailed, subject := .move, number := m.num, detail := [byte reason, byte fails], stamp := m.stamp }

/-- The reason's own effect (R86): 0 CONE for a deck box, 1 SPREADER, 2 OTHER. -/
def Quay.failEffect (q : Quay) (c : Nat) (m : Move) (reason : Nat) : Quay :=
  if reason = 0 then (if m.sect = .deck ∧ m.isHatch = false then q.coneFailure m.bay else q)
  else if reason = 1 then (q.updCrane c fun x => { x with spreader := .unknown }).judge c
  else q

/-- A LIFTING or FAULTED move of a CANCELLING order is cancelled (R40): its truck released, its crane without a
current move, its record freed and counted. -/
def Quay.cancelEnded (q : Quay) (c : Nat) (m : Move) : Quay :=
  let q := q.releaseCancelled m
  let q := q.updCrane c fun x => if x.current = some m.num then { x with current := none } else x
  q.moveEndsChecked m false

/-- A move returns to MATCHED with its truck, a hatch move to STAGED, without a stamp (R85, R91). -/
def returned (m : Move) : Move :=
  { m with stamp := none, state := if m.isHatch then .staged else .matched }

/-- LIFT FAIL for the LIFTING move of a crane (R85, steps 1 to 7). -/
def Quay.liftFails (q : Quay) (c : Nat) (m : Move) (reason : Nat) : Quay :=
  let fails := m.fails + 1
  let q := q.updCrane c fun x => { x with lift := .stopped }
  let q := q.updMove m.num fun x => { x with fails := fails }
  let q := q.post (liftFailedEvent m reason fails)
  let q := q.failEffect c m reason
  if q.item Item.failLimit ≤ fails then (q.moveFaulted c m .failLimit).afterMove c
  else if (q.order? m.order).any fun o => o.state = .cancelling then (q.cancelEnded c m).afterMove c
  else (q.updMove m.num returned).afterWithdraw c

def Quay.liftFailAct (c : Nat) (ops : Word16 × Nat) (q : Quay) : Quay :=
  if 2 < ops.2 then q.refuseFrame .crane c RxKind.liftFail .badValue
  else
    match q.currentMove? c with
    | some m =>
      if m.state = .lifting ∧ m.hasStamp ops.1 = true then q.liftFails c m ops.2
      else q.liftAbort c ops.1 RxKind.liftFail .stale
    | none => q.liftAbort c ops.1 RxKind.liftFail .stale

def execLiftFail (f : RxFrame) (s : State) : Host.Outcome State Fault Refusal :=
  s.next (s.quay.stationFrame .crane RxKind.liftFail f opsLiftFail Quay.liftFailAct)

/-! ## The acceptance, lift and truck wait timers (R70, R80, R82) -/

/-- The acceptance timer of a PERMITTED current move expires: withdrawal with cause ACCEPT (R80). -/
def execAcceptanceTimerExpiry (crane : Nat) (s : State) : Host.Outcome State Fault Refusal :=
  let q := s.quay
  s.next (if (q.crane? crane).any (fun x => x.accept.isRunning) then q.withdraw crane .accept else q)

/-- The lift timer of a LIFTING current move expires: FAULTED with cause LIFT_TIMER (R82). -/
def execLiftTimerExpiry (crane : Nat) (s : State) : Host.Outcome State Fault Refusal :=
  let q := s.quay
  s.next
    (match q.currentMove? crane with
     | some m =>
       if m.state = .lifting ∧ (q.crane? crane).any (fun x => x.lift.isRunning) = true then
         q.moveFaulted crane m .liftTimer
       else q
     | none => q)

/-- TRUCK_LATE: the late count and the order's tag (R70, 12.3). -/
def truckLate (m : Move) (late : Nat) (tag : Word16) : Posting :=
  { kind := .truckLate, subject := .move, number := m.num, detail := [byte late] ++ be16 tag }

/-- The truck wait timer expires with the move still STAGED (R70): late count, TRUCK_LATE, a truck called again, the
timer restarted. -/
def Quay.truckIsLate (q : Quay) (c late : Nat) (m : Move) : Quay :=
  let late := min 255 (late + 1)
  let q := q.updCrane c fun x => { x with late := late }
  let q := q.post (truckLate m late (q.tagOf m.order))
  let q := q.callTruck c m
  q.updCrane c fun x => { x with truckWait := .running (q.item Item.tTruck) }

def execTruckWaitTimerExpiry (crane : Nat) (s : State) : Host.Outcome State Fault Refusal :=
  let q := s.quay
  s.next
    (match q.crane? crane, q.currentMove? crane with
     | some cr, some m =>
       if cr.truckWait.isRunning = true ∧ m.state = .staged ∧ m.isHatch = false then q.truckIsLate crane cr.late m
       else q
     | _, _ => q)

/-! ## MOVE CLEAR (R89 to R92) -/

/-- The checks of R89, in order: BAD_VALUE for an outcome that is none of the three, NO_MOVE, MOVE_STATE. -/
def Quay.moveClearBar (q : Quay) (ops : Nat × Nat) : Except Reason Move :=
  if 2 < ops.2 then .error .badValue
  else
    match q.move? ops.1 with
    | none => .error .noMove
    | some m => if m.state = .faulted then .ok m else .error .moveState

/-- A request of one of the three outcomes: judged by R89, then carried out. -/
def Quay.moveClear (ops : Nat × Nat) (q : Quay) (act : Move → Answer) : Answer :=
  match q.moveClearBar ops with
  | .error r => q.refuse r
  | .ok m => act m

/-- MOVE CLEAR DONE (R90). -/
def Quay.clearDone (q : Quay) (m : Move) : Answer :=
  match q.clearDoneBar m with
  | some r => q.refuse r
  | none =>
    let q := q.releaseDone m m.box m.partner
    let q := q.moveEndsChecked m true
    let q := q.post (moveDoneEvent m 1)
    (q.afterMove m.crane).ok

/-- MOVE CLEAR RETRY (R91). -/
def Quay.clearRetry (q : Quay) (m : Move) : Answer :=
  if (q.order? m.order).any fun o => o.state = .cancelling then ((q.cancelEnded m.crane m).afterMove m.crane).ok
  else
    let q := q.updMove m.num fun x => { returned x with fails := 0 }
    let q := q.updCrane m.crane fun x => { x with current := some m.num }
    (q.afterWithdraw m.crane).ok

/-- MOVE CLEAR CANCEL (R92). -/
def Quay.clearCancel (q : Quay) (m : Move) : Answer := ((q.cancelEnded m.crane m).afterMove m.crane).ok

def execMoveClearDone (record : List Byte) (s : State) : Host.Outcome State Fault Refusal :=
  s.next (s.quay.request Code.moveClear record opsMoveClear fun ops q => q.moveClear ops q.clearDone)

def execMoveClearRetry (record : List Byte) (s : State) : Host.Outcome State Fault Refusal :=
  s.next (s.quay.request Code.moveClear record opsMoveClear fun ops q => q.moveClear ops q.clearRetry)

def execMoveClearCancel (record : List Byte) (s : State) : Host.Outcome State Fault Refusal :=
  s.next (s.quay.request Code.moveClear record opsMoveClear fun ops q => q.moveClear ops q.clearCancel)

end Sys2Proof.Machine
end

