-- ==== Sys2Proof/Machine/Links.lean ====
section
/-!
DEFINITION. The quay links (chapter 8): JOIN, LEAVE, MALFORMED_FRAME, LINK_HOLD, ATTEMPT, DELIVERED, FAILED_ATTEMPT,
QUIET_INTERVAL, QUIET_COUNT_COMPLETE.
-/

namespace Sys2Proof.Machine

namespace Quay

/-! ## JOIN (R142, R46, R47, R127, R106) -/

/-- JOIN_REFUSED by the station table (R142) and by the Crane Context Unit (R46). -/
def joinRefusedStation (n : Nat) : Posting :=
  { kind := .joinRefused, subject := .station, number := n, detail := [byte Reason.role.code] }
def joinRefusedCrane (c : Nat) (why : Reason) : Posting :=
  { kind := .joinRefused, subject := .crane, number := c, detail := [byte why.code] }

/-- STATION_JOIN: the link and the previous station state (R142). -/
def stationJoin (l : Link) (n : Nat) (prev : StationState) : Posting :=
  { kind := .stationJoin, subject := .station, number := n, detail := [byte (linkNumber l), byte prev.code] }

/-- The judgement of R46: the reason that refuses, and whether it is step 3 that failed. -/
def craneJoinBar (q : Quay) (c b mode : Nat) : Option (Reason × Bool) :=
  if (q.bay? b).isNone ∨ (SpreaderMode.ofCode mode).isNone then some (.badValue, false)
  else
    match (q.crane? c).bind (·.span) with
    | none => if (q.blockingCrane? c ⟨b, b⟩).isSome then some (.span, false) else none
    | some sp => if inSpan b (some sp) then none else some (.span, true)

/-- A crane JOIN that R46 refuses: REFUSE, JOIN_REFUSED, the fault of step 3, and an ONLINE station goes OFFLINE
with the effects of LEAVE (R46, R142). The fault takes a travelling crane out of POSITIONING before LEAVE could end its
travel (R48, R54), so the travel is ended for the crane as the frame found it (log entry 30). -/
def refuseCraneJoin (q : Quay) (c : Nat) (why : Reason) (outside : Bool) : Quay :=
  let travelled := q.isTravelling c
  let q := q.refuseFrame .crane c RxKind.join why
  let q := q.post (joinRefusedCrane c why)
  let q := if outside then q.enterFault c (craneFaultEvent c 1) else q
  if q.craneOnline c then (if travelled then q.endTravel c else q).stationOff .crane c else q

/-- Step 2 of R47. A pending preemption that the withdrawal lets in is pushed here; its move is staged only at the
JOIN's end (log entry 10). -/
def joinCurrentMove (q : Quay) (c : Nat) : Quay :=
  match q.currentMove? c with
  | none => q
  | some m =>
    if m.state = .permitted then q.withdraw c .join
    else if m.state = .lifting then q.moveFaulted c m .join
    else q

/-- Step 4 of R47. -/
def joinState (q : Quay) (c : Nat) : Quay :=
  if (q.crane? c).any fun x => x.faultMark then q.updCrane c fun x => { x with state := .fault } else q.takeUp c

/-- Step 5 of R47. -/
def joinOrders (q : Quay) (c : Nat) : Quay :=
  match (q.crane? c).bind (·.active) with
  | some slot => q.workNotice c slot
  | none => q.chooseActive c

/-- The Crane Context Unit's part of an accepted JOIN (R47). While steps 1 to 5 are taken the crane's moves are
granted nothing and none is staged (log entry 10); then the Permit Unit stages and judges. -/
def craneJoined (q : Quay) (c b : Nat) (mode : SpreaderMode) : Quay :=
  let q := q.setBar (some c)
  let q := q.standAt c b
  let q := q.joinCurrentMove c
  let q := q.updCrane c fun x => { x with spreader := mode }
  let q := (q.joinState c).joinOrders c
  let q := q.setBar none
  (q.applyStaging c).judge c

/-- A gang that holds a task is reminded of it at its JOIN (R127). -/
def remindGang (q : Quay) (x : Gang) : Quay :=
  match x.state, x.task, x.bay with
  | .idle, _, _ => q
  | _, some t, some b => q.sendRoutine .crane (gangStation x.num) (.lashOrder t b)
  | _, _, _ => q

/-- Lashing Dispatch's part of a gang JOIN: the reminder of R127, then the dispatch that R121 makes when a gang's
station becomes ONLINE by JOIN, whatever the gang's state (their order: log entry 38). -/
def gangJoined (q : Quay) (g : Nat) : Quay :=
  match q.gang? g with
  | none => q
  | some x => (q.remindGang x).makeDispatch

/-- A taken JOIN (R142, steps 1 to 5). -/
def takeJoin (q : Quay) (l : Link) (n : Nat) (act : Quay → Quay) : Quay :=
  let prev := (q.station l n).state
  let q := q.setStation l n .online
  let q := q.sendRoutine l n .joinAck
  let q := q.post (stationJoin l n prev)
  (act q).tellStopState l n

/-- A JOIN of a crane that passed the role check (R46, R142). -/
def joinCrane (q : Quay) (l : Link) (c b mode : Nat) : Quay :=
  match q.craneJoinBar c b mode with
  | some (why, outside) => q.refuseCraneJoin c why outside
  | none => q.takeJoin l c fun q => q.craneJoined c b ((SpreaderMode.ofCode mode).getD .unknown)

/-- A JOIN whose claimed role is the entry's (R142). -/
def joinAs (q : Quay) (l : Link) (n : Nat) (r : Role) (b mode : Nat) : Quay :=
  match r with
  | .crane => q.joinCrane l n b mode
  | .gang => q.takeJoin l n fun q => q.gangJoined (n - 16)
  | .gate => q.takeJoin l n fun q => q.judgeLane n

/-- A JOIN refused for its role (R142). -/
def refuseRole (q : Quay) (l : Link) (n : Nat) : Quay :=
  (q.refuseFrame l n RxKind.join .role).post (joinRefusedStation n)

/-- JOIN judged: its length after the role byte (R168), then its role (R142). -/
def joinAct (l : Link) (n : Nat) (payload : List Byte) (q : Quay) : Quay :=
  match payload with
  | [] => q.refuseFrame l n RxKind.join .badValue
  | r :: rest =>
    let claim := Role.ofCode r.toNat
    if claim = some .crane ∧ rest.length < 2 then q.refuseFrame l n RxKind.join .badValue
    else
      match (q.station l n).role with
      | none => q.refuseRole l n
      | some role =>
        if claim = some role then q.joinAs l n role (rest.getD 0 0).toNat (rest.getD 1 0).toNat
        else q.refuseRole l n

/-! ## LINK HOLD (R146) -/

/-- The hold flag is written; clearing it takes a link in REJOIN with a complete count to ACTIVE. -/
def writeHold (q : Quay) (l : Link) (v : Bool) : Quay :=
  let q := q.updLink l fun k => { k with hold := v }
  if !v && decide ((q.link l).state = .rejoin) && (q.link l).complete then q.goActive l else q

def linkHoldAct (ops : Nat × Nat) (q : Quay) : Answer :=
  match linkOfNumber ops.1 with
  | none => q.refuse .badValue
  | some l => if 1 < ops.2 then q.refuse .badValue else (q.writeHold l (decide (ops.2 = 1))).ok

/-! ## Transmission (R147) -/

/-- Change the first element that satisfies `p`. -/
def updFirst {α : Type} (p : α → Bool) (f : α → α) : List α → List α
  | [] => []
  | x :: xs => if p x then f x :: xs else x :: updFirst p f xs

/-- Drop the first element that satisfies `p`. -/
def dropFirst {α : Type} (p : α → Bool) : List α → List α
  | [] => []
  | x :: xs => if p x then xs else x :: dropFirst p xs

/-- A frame of a link in transmission. -/
def inTransmission (l : Link) (f : TxFrame) : Bool := decide (f.link = l) && f.begun

/-- The frame in transmission on a link (R147). -/
def transmitting? (q : Quay) (l : Link) : Option TxFrame := q.pool.find? (inTransmission l)

/-- A frame at the front of a link's queue has the given class and has not begun. -/
def waitsOn (l : Link) (urgent : Bool) (f : TxFrame) : Bool :=
  decide (f.link = l) && !f.begun && decide (f.msg.urgent = urgent)

/-- The bytes of the attempt with a frame. -/
def sendOut (q : Quay) (l : Link) (f : TxFrame) : Quay := q.updLink l fun k => { k with out := f.wire }

/-- The frame at the front of the queue begins its first attempt (R147). -/
def beginAttempt (q : Quay) (l : Link) : Quay :=
  match q.queueOf l with
  | [] => q
  | f :: _ =>
    (q.setPool (updFirst (waitsOn l f.msg.urgent) (fun x => { x with begun := true }) q.pool)).sendOut l f

/-- ATTEMPT: only on a link that carries frames, with nothing in transmission (R147). -/
def attempt (q : Quay) (l : Link) : Quay :=
  if q.linkCarries l && (q.transmitting? l).isNone then q.beginAttempt l else q

/-- The frame in transmission leaves its slot. -/
def dropTransmitting (q : Quay) (l : Link) : Quay := q.setPool (dropFirst (inTransmission l) q.pool)

/-- The frame in transmission is delivered (R147). -/
def delivered (q : Quay) (l : Link) : Quay := ((q.lowerScore l).dropTransmitting l).freedSlots

/-- The attempt with a frame failed (R147): the score rises by 8; on a link still carrying frames another attempt
follows at once (log entry 18), or, after the fourth, the frame is dropped. A link gone SILENT has discarded it. -/
def attemptFailed (q : Quay) (l : Link) (f : TxFrame) : Quay :=
  let fails := f.fails + 1
  let q := q.setPool (updFirst (inTransmission l) (fun x => { x with fails := fails }) q.pool)
  let q := q.addScore l 8
  if q.linkCarries l then
    if fails < Config.attemptLimit then q.sendOut l f
    else ((q.dropTransmitting l).post (frameDropped l .retries f.dest f.msg)).freedSlots
  else q

/-! ## Quiet intervals (R146) -/

/-- A link in REJOIN whose quiet count is not complete counts. -/
def counting (q : Quay) (l : Link) : Bool := decide ((q.link l).state = .rejoin) && !(q.link l).complete

/-- One quiet interval (R146). -/
def quietInterval (q : Quay) (l : Link) : Quay :=
  if q.counting l then
    let q := q.updLink l fun k => { k with quiet := k.quiet + 1 }
    if q.item Item.rejoinQuiet ≤ (q.link l).quiet then q.quietComplete l else q
  else q

/-- The quiet count reaches REJOIN_QUIET (R146; log entry 16). -/
def quietReached (q : Quay) (l : Link) : Quay :=
  if q.counting l then
    (q.updLink l fun k => { k with quiet := max k.quiet (q.item Item.rejoinQuiet) }).quietComplete l
  else q

end Quay

def execJoin (link : Link) (f : RxFrame) (s : State) : Host.Outcome State Fault Refusal :=
  s.next (s.quay.receive link f (Quay.joinAct link))

/-- LEAVE (R143). -/
def execLeave (link : Link) (f : RxFrame) (s : State) : Host.Outcome State Fault Refusal :=
  s.next (s.quay.stationFrame link RxKind.leave f Quay.noPayload fun n _ q => q.stationOff link n)

/-- A malformed frame on a link that receives (R140); bytes that are no malformed frame are not this event. -/
def execMalformedFrame (link : Link) (raw : List Byte) (s : State) : Host.Outcome State Fault Refusal :=
  let q := s.quay
  s.next (if q.linkCarries link && malformedOn link raw then q.malformed link else q)

def execLinkHold (record : List Byte) (s : State) : Host.Outcome State Fault Refusal :=
  s.next (s.quay.request Code.linkHold record ops8x2 Quay.linkHoldAct)

def execAttempt (link : Link) (s : State) : Host.Outcome State Fault Refusal :=
  s.next (s.quay.attempt link)

def execDelivered (link : Link) (s : State) : Host.Outcome State Fault Refusal :=
  s.next
    (match s.quay.transmitting? link with
     | some _ => s.quay.delivered link
     | none => s.quay)

def execFailedAttempt (link : Link) (s : State) : Host.Outcome State Fault Refusal :=
  s.next
    (match s.quay.transmitting? link with
     | some f => s.quay.attemptFailed link f
     | none => s.quay)

def execQuietInterval (link : Link) (s : State) : Host.Outcome State Fault Refusal :=
  s.next (s.quay.quietInterval link)

def execQuietCountComplete (link : Link) (s : State) : Host.Outcome State Fault Refusal :=
  s.next (s.quay.quietReached link)

end Sys2Proof.Machine
end

