-- ==== Sys2Proof/Machine/Orders.lean ====
section
/-!
DEFINITION. The order requests (chapter 2): ORDER_OPEN, ORDER_ENTRIES, ORDER_CLOSE, ORDER_CANCEL, MOVE_DEFER,
MOVE_REINSTATE, with preemption offers (R61).
-/

namespace Sys2Proof.Machine

/-! ## ORDER OPEN (R24, R25) -/

/-- The group slots in use. -/
def OrderHeader.usedGroups (h : OrderHeader) : List (Nat × Nat) := h.groups.take h.groupCount

/-- The order's total (R18, R24): 1 for a hatch kind, else the sum of the move counts. -/
def OrderHeader.total (h : OrderHeader) (k : OrderKind) : Nat :=
  if k.isHatch then 1 else (h.usedGroups.map (·.2)).sum

/-- Check 2 of R24: BAD_VALUE for a kind that is known. -/
def OrderHeader.badValue (h : OrderHeader) (k : OrderKind) : Bool :=
  decide (h.tag = 0) ||
    (if k.isHatch then decide (h.groupCount ≠ 0)
     else (BaySection.ofCode h.sect).isNone || decide (h.rowCount < 1 ∨ 24 < h.rowCount) ||
       decide (h.rowCount ≤ h.startRow) || decide (3 < h.groupCount))

/-- A lift class of a group that R24, check 7, admits. -/
def groupClass (code : Nat) : Option LiftClass :=
  match LiftClass.ofCode code with
  | some .cover => none
  | x => x

/-- Checks 6 to 8 of R24 on the groups of a non-hatch order. -/
def OrderHeader.groupBar (h : OrderHeader) : Option Reason :=
  if h.groupCount = 0 ∨ h.usedGroups.any (fun g => g.2 = 0) = true then some .groupEmpty
  else if h.usedGroups.any (fun g => (groupClass g.1).isNone) then some .badClass
  else if h.usedGroups.any (fun g => decide (96 < g.2)) = true ∨ 128 < (h.usedGroups.map (·.2)).sum then some .tooLong
  else none

/-- The lowest-numbered empty slot of the Order Table (R25). -/
def Quay.emptySlot? (q : Quay) : Option Nat :=
  (List.range Config.orderSlots).find? fun n => (q.order? n).isNone

/-- The checks of R24 in their order; the kind where they pass. -/
def Quay.orderOpenBar (q : Quay) (h : OrderHeader) : Except Reason OrderKind :=
  if q.assembly.isSome then .error .assemblyBusy
  else
    match OrderKind.ofCode h.kind with
    | none => .error .badValue
    | some k =>
      if h.badValue k then .error .badValue
      else if (q.orderByTag? h.tag).isSome then .error .tagInUse
      else if (q.crane? h.crane).isNone then .error .badCrane
      else if (q.bay? h.bay).isNone then .error .badBay
      else
        match (if k.isHatch then none else h.groupBar) with
        | some r => .error r
        | none =>
          if q.emptySlot?.isNone then .error .orderTableFull
          else if (q.crane? h.crane).any (fun c => decide (Config.waitingLimit ≤ c.waiting.length)) then
            .error .craneListFull
          else if q.freeList.length < h.total k then .error .storeFull
          else .ok k

/-- The groups of an order (R18): one group of class COVER and count 1 for a hatch kind. -/
def OrderHeader.orderGroups (h : OrderHeader) (k : OrderKind) : List Group :=
  if k.isHatch then [⟨.cover, 1⟩]
  else h.usedGroups.filterMap fun g => (groupClass g.1).map fun c => ⟨c, g.2⟩

/-- The order record ORDER OPEN writes (R18, R25). -/
def OrderHeader.record (h : OrderHeader) (k : OrderKind) (slot : Nat) : Order :=
  let cargo := !k.isHatch
  { slot := slot, tag := h.tag, kind := k, crane := h.crane, bay := h.bay
    sect := if cargo then (BaySection.ofCode h.sect).getD .deck else .deck
    rowCount := if cargo then some h.rowCount else none
    startRow := if cargo then some h.startRow else none
    ordering := if cargo then some h.ordering else none
    priority := h.priority
    groups := h.orderGroups k
    total := h.total k
    state := .assembling, live := 0, done := 0, cancelled := 0, stalled := false }

/-- The header into its slot, the records reserved, the assembly context created (R25). -/
def Quay.openOrder (q : Quay) (h : OrderHeader) (k : OrderKind) (slot : Nat) : Quay :=
  let n := h.total k
  let q := q.addOrder (h.record k slot)
  let q := q.setAssembly (some
    { slot := slot, reserved := q.freeList.take n, entries := [], lateEnd := false
      firstFailed := none, firstRepeat := none })
  q.setFreeList (q.freeList.drop n)

def Quay.orderOpenAct (h : OrderHeader) (q : Quay) : Answer :=
  match q.orderOpenBar h with
  | .error r => q.refuse r
  | .ok k =>
    match q.emptySlot? with
    | none => q.refuse .orderTableFull
    | some slot => (q.openOrder h k slot).ok

def execOrderOpen (record : List Byte) (s : State) : Host.Outcome State Fault Refusal :=
  s.next (s.quay.request Code.orderOpen record opsOrderOpen Quay.orderOpenAct)

/-! ## ORDER ENTRIES (R26, R27) -/

/-- The group number and class of an entry index (R27). -/
def groupOfIndex (groups : List Group) (first idx : Nat) : Option (Nat × LiftClass) :=
  match groups with
  | [] => none
  | g :: gs => if idx < g.count then some (first, g.cls) else groupOfIndex gs (first + 1) (idx - g.count)

/-- How many entries an order takes: its total, or none for a hatch kind (R26). -/
def Order.entryTotal (o : Order) : Nat := if o.kind.isHatch then 0 else o.total

/-- The entry check of R27. -/
def entryFails (o : Order) (cls : Option LiftClass) (e : Entry) : Bool :=
  decide (o.rowCount.getD 0 ≤ e.row) || decide (15 < e.tier) ||
    (decide (o.kind = .load) && (e.box.isNone || (decide (cls = some .twin20) && e.partner.isNone)))

/-- The index becomes the first one kept, if the check fails and none is kept yet (R27). -/
def keepFirst (kept : Option Nat) (fails : Bool) (idx : Nat) : Option Nat :=
  if kept.isNone && fails then some idx else kept

/-- One entry of a batch: appended with its checks, or discarded with the late-end mark (R26, R27). A partner box
of a class other than TWIN20 is discarded. -/
def Assembly.take (o : Order) (a : Assembly) (e : Entry) : Assembly :=
  if a.entries.length < o.entryTotal then
    let idx := a.entries.length
    let cls : Option LiftClass := (groupOfIndex o.groups 1 idx).map (·.2)
    let e := if cls = some .twin20 then e else { e with partner := none }
    let repeats := a.entries.any fun x => x.row = e.row ∧ x.tier = e.tier
    { a with
      entries := a.entries ++ [e]
      firstFailed := keepFirst a.firstFailed (entryFails o cls e) idx
      firstRepeat := keepFirst a.firstRepeat repeats idx }
  else { a with lateEnd := true }

/-- The assembling order and its context, if the tag is its tag (R26, R28). -/
def Quay.assembling? (q : Quay) (tag : Word16) : Option (Assembly × Order) :=
  match q.assembly with
  | none => none
  | some a =>
    match q.order? a.slot with
    | some o => if o.tag = tag then some (a, o) else none
    | none => none

/-- ORDER ENTRIES judged and taken (R26). That NO_ORDER is judged before BAD_VALUE, where both apply, is the model's choice
(log entry 44). -/
def Quay.orderEntriesAct (ops : Word16 × Nat × List Entry) (q : Quay) : Answer :=
  match q.assembling? ops.1 with
  | none => q.refuse .noOrder
  | some (a, o) =>
    if ops.2.1 = 0 ∨ 40 < ops.2.1 then q.refuse .badValue
    else
      let a := ops.2.2.foldl (Assembly.take o) a
      ⟨q.setAssembly (some a), .ok, [byte a.entries.length]⟩

def execOrderEntries (record : List Byte) (s : State) : Host.Outcome State Fault Refusal :=
  s.next (s.quay.request Code.orderEntries record opsOrderEntries Quay.orderEntriesAct)

/-! ## ORDER CLOSE (R28 to R31, R61) -/

/-- The judgement of R28: the first reason that applies, with its index, or none. -/
def closeBar (o : Order) (a : Assembly) : Option (Reason × Option Nat) :=
  if a.lateEnd then some (.lateEnd, none)
  else if a.entries.length < o.entryTotal then some (.earlyEnd, none)
  else
    match a.firstFailed, a.firstRepeat with
    | some i, _ => some (.entryBad, some i)
    | none, some i => some (.dupCell, some i)
    | none, none => none

/-- The order and its assembly are dropped, the reserved records returning in the order taken (R22, R28, R38). -/
def Quay.dropAssembly (q : Quay) (a : Assembly) : Quay :=
  let q := q.dropOrder a.slot
  (q.setFreeList (q.freeList ++ a.reserved)).setAssembly none

/-- ORDER_REFUSED with the reason and any index (R28); that no presence byte stands before the index is the model's
choice (log entry 42). -/
def orderRefused (tag : Word16) (r : Reason) (idx : Option Nat) : Posting :=
  { kind := .orderRefused, subject := .order, number := tag.toNat
    detail := [byte r.code] ++ (idx.map byte).toList }

/-- An entry with its group and class, to be placed in the issue order. -/
structure Placed where
  group : Nat
  cls   : LiftClass
  entry : Entry
deriving DecidableEq, Repr

/-- Where a row stands in the sweep that begins at the start row and wraps (R29, key 2). -/
def sweepPosition (o : Order) (row : Nat) : Nat :=
  let n := o.rowCount.getD 1
  let start := o.startRow.getD 0
  if start ≤ row then row - start else row + n - start

/-- The issue order of R29: group, row in sweep order, tier falling for a DISCHARGE and rising for a LOAD. -/
def issuesBefore (o : Order) (a b : Placed) : Bool :=
  if a.group ≠ b.group then a.group < b.group
  else if a.entry.row ≠ b.entry.row then sweepPosition o a.entry.row < sweepPosition o b.entry.row
  else if o.kind = .load then a.entry.tier ≤ b.entry.tier
  else b.entry.tier ≤ a.entry.tier

/-- The entries in issue order (R29). -/
def issueOrder (o : Order) (entries : List Entry) : List Placed :=
  sortBy (issuesBefore o)
    (entries.zipIdx.filterMap fun x => (groupOfIndex o.groups 1 x.2).map fun g => ⟨g.1, g.2, x.1⟩)

/-- A live move of an entry (R21, R30). -/
def newMove (o : Order) (num pos : Nat) (p : Placed) : Move :=
  { num := num, order := o.slot, crane := o.crane, bay := o.bay, sect := o.sect, kind := o.kind, cls := p.cls
    row := some p.entry.row, tier := some p.entry.tier, box := p.entry.box, partner := p.entry.partner
    group := p.group, pos := pos, state := if p.entry.heldBack then .deferred else .queued
    truck := none, stamp := none, fails := 0 }

/-- The single move of a hatch order (R30). -/
def newHatchMove (o : Order) (num : Nat) : Move :=
  { num := num, order := o.slot, crane := o.crane, bay := o.bay, sect := .deck, kind := o.kind, cls := .cover
    row := none, tier := none, box := none, partner := none, group := 1, pos := 0, state := .queued
    truck := none, stamp := none, fails := 0 }

/-- The live moves of an accepted order, in issue order (R30). -/
def movesOfOrder (o : Order) (a : Assembly) : List Move :=
  if o.kind.isHatch then a.reserved.map (newHatchMove o)
  else (a.reserved.zip (issueOrder o a.entries)).zipIdx.map fun x => newMove o x.1.1 x.2 x.1.2

/-- The reserved records become live moves; the order's live count becomes its total; the context is dropped
(R30). -/
def Quay.makeLive (q : Quay) (o : Order) (a : Assembly) : Quay :=
  let q := forEach (fun m q => q.addMove m) (movesOfOrder o a) q
  let q := q.updOrder o.slot fun x => { x with state := .waiting, live := x.total }
  q.setAssembly none

/-- Orders that raise the unlash trigger at their acceptance (R31, R41). -/
def Order.wantsUnlash (o : Order) : Bool :=
  match o.kind with
  | .discharge | .load => decide (o.sect = .deck)
  | .hatchOff => true
  | .hatchOn => false

/-- ORDER_ACCEPTED (R31). -/
def orderAccepted (tag : Word16) : Posting := { kind := .orderAccepted, subject := .order, number := tag.toNat }

/-- HOLD_STACK_FULL (R61). -/
def holdStackFull (c : Nat) (tag : Word16) : Posting :=
  { kind := .holdStackFull, subject := .crane, number := c, detail := be16 tag }

/-- An URGENT order joins the head of the list (R31). -/
def Quay.joinListHead (q : Quay) (c slot : Nat) : Quay :=
  q.updCrane c fun x => { x with waiting := slot :: x.waiting }

/-- The offer of an URGENT order (R61): declined with HOLD_STACK_FULL, declined without event, pushed at once, or
pending. -/
def Quay.offer (q : Quay) (o : Order) : Quay :=
  match q.crane? o.crane with
  | none => q
  | some cr =>
    if Config.stackLimit ≤ cr.stack.length then
      (q.post (holdStackFull o.crane o.tag)).joinListHead o.crane o.slot
    else
      match q.activeOrder? o.crane with
      | some old =>
        if old.state = .active ∧ cr.preempt = none then
          if q.blocked old.slot then q.updCrane o.crane fun x => { x with preempt := some o.slot }
          else q.push o.crane o.slot
        else q.joinListHead o.crane o.slot
      | none => q.joinListHead o.crane o.slot

/-- The placement of an accepted order with its crane (R31, step 3). -/
def Quay.placeOrder (q : Quay) (o : Order) : Quay :=
  match o.priority with
  | .normal => q.updCrane o.crane fun x => { x with waiting := x.waiting ++ [o.slot] }
  | .urgent => q.offer o

/-- The acceptance of an order (R30, R31): moves, unlash trigger, event, placement, activation, and the staging rule
at the end (R68). -/
def Quay.acceptOrder (q : Quay) (o : Order) (a : Assembly) : Quay :=
  let q := q.makeLive o a
  let q := if o.wantsUnlash then q.unlashTrigger o.bay else q
  let q := q.post (orderAccepted o.tag)
  let q := q.placeOrder o
  let q := q.chooseActive o.crane
  q.applyStaging o.crane

def Quay.orderCloseAct (tag : Word16) (q : Quay) : Answer :=
  match q.assembling? tag with
  | none => q.refuse .noOrder
  | some (a, o) =>
    match closeBar o a with
    | some (r, idx) => ⟨(q.dropAssembly a).post (orderRefused o.tag r idx), r, (idx.map byte).toList⟩
    | none => (q.acceptOrder o a).ok

def execOrderClose (record : List Byte) (s : State) : Host.Outcome State Fault Refusal :=
  s.next (s.quay.request Code.orderClose record opsTag Quay.orderCloseAct)

/-! ## ORDER CANCEL (R38, R39) -/

/-- The moves of an order in rising issue position. -/
def Quay.movesByPos (q : Quay) (slot : Nat) : List Move :=
  sortBy (fun a b => a.pos ≤ b.pos) (q.movesOf slot)

/-- Moves are cancelled one after another, each an end of its order's move (R36 to R39). The order of an ORDER CANCEL is
still ACTIVE while they are cancelled (log entry 14). -/
def Quay.cancelMoves (q : Quay) (l : List Move) : Quay := forEach (fun m q => q.moveEndsChecked m false) l q

/-- The crane's current move, neither LIFTING nor FAULTED, of an order being cancelled (R39): PERMITTED is withdrawn first
with cause CANCEL, a bound truck is released, the truck wait timer stops, the move is cancelled. -/
def Quay.cancelCurrent (q : Quay) (c : Nat) (m : Move) : Quay :=
  let q := if m.state = .permitted then q.withdrawCore c m .cancel else q
  let q := q.releaseCancelled m
  let q := q.updCrane c fun x => { x with current := none, truckWait := .stopped }
  q.moveEndsChecked m false

/-- ORDER CANCEL of an ACTIVE order (R39). The order leaves the table with its last move; else it becomes
CANCELLING. -/
def Quay.cancelActive (q : Quay) (o : Order) : Quay :=
  let q : Quay :=
    match q.currentMove? o.crane with
    | some m =>
      if m.order = o.slot ∧ m.state ≠ .lifting ∧ m.state ≠ .faulted then q.cancelCurrent o.crane m else q
    | none => q
  let rest := (q.movesByPos o.slot).filter fun m => m.state = .queued ∨ m.state = .deferred
  let q := q.cancelMoves rest
  let q := q.updOrder o.slot fun x => { x with state := .cancelling }
  q.applyStaging o.crane

/-- ORDER CANCEL by the order's state (R38, R39). -/
def Quay.cancelOrder (q : Quay) (o : Order) : Quay :=
  match o.state with
  | .assembling =>
    match q.assembly with
    | some a => q.dropAssembly a
    | none => q.dropOrder o.slot
  | .waiting =>
    let q := q.updCrane o.crane fun x =>
      { x with
        waiting := x.waiting.filter fun n => n ≠ o.slot
        preempt := if x.preempt = some o.slot then none else x.preempt }
    q.cancelMoves (q.movesByPos o.slot)
  | .stacked =>
    let q := q.updCrane o.crane fun x => { x with stack := x.stack.filter fun e => e.order ≠ o.slot }
    q.cancelMoves (q.movesByPos o.slot)
  | .active => q.cancelActive o
  | .cancelling => q

def Quay.orderCancelAct (tag : Word16) (q : Quay) : Answer :=
  match q.orderByTag? tag with
  | none => q.refuse .noOrder
  | some o => if o.state = .cancelling then q.refuse .orderState else (q.cancelOrder o).ok

def execOrderCancel (record : List Byte) (s : State) : Host.Outcome State Fault Refusal :=
  s.next (s.quay.request Code.orderCancel record opsTag Quay.orderCancelAct)

/-! ## MOVE DEFER and MOVE REINSTATE (R32, R33) -/

def Quay.moveDeferAct (n : Nat) (q : Quay) : Answer :=
  match q.move? n with
  | none => q.refuse .noMove
  | some m =>
    if m.state ≠ .queued then q.refuse .moveState
    else ((q.updMove n fun x => { x with state := .deferred }).stallCheck m.order).ok

def execMoveDefer (record : List Byte) (s : State) : Host.Outcome State Fault Refusal :=
  s.next (s.quay.request Code.moveDefer record ops16 Quay.moveDeferAct)

/-- The staging rule at a reinstated move's crane, if its order is ACTIVE (R33). -/
def Quay.stageIfActive (q : Quay) (m : Move) : Quay :=
  if (q.order? m.order).any fun o => o.state = .active then q.applyStaging m.crane else q

def Quay.moveReinstateAct (n : Nat) (q : Quay) : Answer :=
  match q.move? n with
  | none => q.refuse .noMove
  | some m =>
    if m.state ≠ .deferred then q.refuse .moveState
    else
      let q := q.updMove n fun x => { x with state := .queued }
      let q := q.updOrder m.order fun x => { x with stalled := false }
      (q.stageIfActive m).ok

def execMoveReinstate (record : List Byte) (s : State) : Host.Outcome State Fault Refusal :=
  s.next (s.quay.request Code.moveReinstate record ops16 Quay.moveReinstateAct)

end Sys2Proof.Machine
end

