-- ==== Sys2Proof/Machine/Tables.lean ====
section
/-!
DEFINITION. The records of TABLE READ (R158): the seven tables by R17, R23, R66, R115, R131 and R151, in the layouts
of 12.3 and the conventions of 12.1 (log entry 22 names what those leave open). Records are formed from the state as
it stands when they are streamed.
-/

namespace Sys2Proof.Machine

/-- A field of a record: always there, or optional with its bytes at full width. -/
inductive Field where
  | plain (bytes : List Byte)
  | opt (present : Bool) (bytes : List Byte)
deriving DecidableEq, Repr

def Field.isPlain : Field → Bool
  | .plain _ => true
  | .opt .. => false

def Field.bytes : Field → List Byte
  | .plain b => b
  | .opt _ b => b

/-- The presence bits of the optional fields of a record, the first one's at bit `k` (12.1). -/
def presenceBits : Nat → List Field → Nat
  | _, [] => 0
  | k, .plain _ :: fs => presenceBits k fs
  | k, .opt p _ :: fs => bitAt k p + presenceBits (k + 1) fs

/-- A record's bytes: one presence byte before its first optional field (12.1; log entry 22). -/
def recordBytes (fs : List Field) : List Byte :=
  let front := fs.takeWhile Field.isPlain
  let rest := fs.dropWhile Field.isPlain
  front.flatMap Field.bytes ++ (if rest.isEmpty then [] else [byte (presenceBits 0 rest)]) ++ rest.flatMap Field.bytes

/-- One-byte and two-byte fields. -/
def f8 (n : Nat) : Field := .plain [byte n]
def f16 (n : Nat) : Field := .plain (be16n n)
def fBool (b : Bool) : Field := .plain [onOff b]
def o8 (x : Option Nat) : Field := .opt x.isSome (optByte x)
def o16 (x : Option Word16) : Field := .opt x.isSome (opt16 x)
def o32 (x : Option Word32) : Field := .opt x.isSome (opt32 x)

/-- A timer's state and remaining time. -/
def fTimer (t : Timer) : Field := .plain ([byte t.code] ++ be16n t.left)

/-- A list, its count before it (12.1). -/
def fList (l : List (List Byte)) : Field := .plain (byte l.length :: l.flatten)

namespace Quay

/-! ## Berth Table (R17, 12.3) -/

/-- The in-flight fields, bytes 12 to 16 of a bay record. -/
def inFlightBytes (m : Option Move) : List Byte :=
  match m with
  | some m =>
    be16n m.num ++ [byte (m.crane + bitAt 3 (m.state = .lifting))] ++ opt16 m.stamp
  | none => [0, 0, 0, 0, 0]

/-- The 17 bytes of a bay record. -/
def bayRecord (q : Quay) (b : Bay) : List Byte :=
  let claim := (q.claim? b.num).map (·.num)
  let m := q.inFlightMove? b.num
  [byte b.num, byte b.deckCount, byte b.holdCount, byte b.deckCap, byte b.holdCap,
   byte (b.hatch.code + 2 * b.lash.code), byte (bitAt 0 claim.isSome + bitAt 1 m.isSome)] ++ optByte claim ++
    be16n (q.liveMoves b.num .deck) ++ be16n (q.liveMoves b.num .hold) ++ inFlightBytes m

/-! ## Crane contexts (R66) -/

def stackBytes (q : Quay) (e : StackEntry) : List Byte :=
  be16 (q.tagOf e.order) ++ optByte e.bay ++ [byte e.mode.code, onOff e.enable]

/-- A crane's current move as shown: its number and state. -/
def currentBytes (m : Option Move) : List Byte :=
  match m with
  | some m => be16n m.num ++ [byte m.state.code]
  | none => [0, 0, 0]

def spanBytes (s : Option Span) : List Byte :=
  match s with
  | some s => [byte s.low, byte s.high]
  | none => [0, 0]

/-- A crane record (R66). The fault mark is sent as 1 set, 0 clear, the model's choice (log entry 42). -/
def craneRecord (q : Quay) (c : Crane) : List Byte :=
  recordBytes
    ([f8 c.num, f8 (q.station .crane c.num).state.code, f8 c.state.code, o8 c.bay,
      .opt c.span.isSome (spanBytes c.span), o8 c.target, fBool c.faultMark, f8 c.spreader.code, fBool c.enable,
      fBool c.savedEnable] ++
     [o16 (c.active.map q.tagOf), fList (c.waiting.map fun s => be16 (q.tagOf s)),
      .opt (q.currentMove? c.num).isSome (currentBytes (q.currentMove? c.num)), o16 (c.preempt.map q.tagOf),
      fList (c.stack.map q.stackBytes), fTimer c.gantry, fTimer c.accept, fTimer c.lift])

/-! ## Move records (R23) -/

/-- The tag and lane of a bound truck. -/
def truckBytes (t : Option TruckRef) : List Byte :=
  match t with
  | some t => be16 t.tag ++ [byte t.lane]
  | none => [0, 0, 0]

def liveRecord (q : Quay) (m : Move) : List Byte :=
  recordBytes
    ([f16 m.num, f8 2, .plain (be16 (q.tagOf m.order)), f8 m.order, f8 m.crane, f8 m.bay, f8 m.sect.code,
      f8 m.kind.code, f8 m.cls.code] ++
     [o8 m.row, o8 m.tier, o32 m.box, o32 m.partner, f8 m.group, f8 m.pos, f8 m.state.code,
      .opt m.truck.isSome (truckBytes m.truck), o16 m.stamp, f8 m.fails])

/-- The record of a number: 0 FREE, 1 RESERVED with the assembling order's slot and tag, 2 LIVE (R23). -/
def moveRecord (q : Quay) (n : Nat) : List Byte :=
  match q.move? n with
  | some m => q.liveRecord m
  | none =>
    match q.assembly with
    | some a => if a.reserved.contains n then be16n n ++ [1, byte a.slot] ++ be16 (q.tagOf a.slot) else be16n n ++ [0]
    | none => be16n n ++ [0]

/-! ## Lane records (R115) -/

/-- A truck record (R115); the SET mark and the misorder mark are sent as 1 set, 0 clear (log entry 42). -/
def truckRecord (t : Truck) : List Byte :=
  recordBytes
    [.plain (be16 t.tag), f8 t.load.code, f8 t.capacity.code, o32 t.box, o32 t.partner, fBool t.set,
     .opt t.bound.isSome (be16n (t.bound.getD 0)), fBool t.misorder]

/-- What is left of a pulse timer when it is read: the part keeps it in units the model does not count, so a running
timer shows a free value within its time (log entry 7). -/
def pulseShown (q : Quay) (l : Lane) : Nat :=
  match l.pulse with
  | .running n => Config.pulseLeft q.freeCount l.phys % (n + 1)
  | _ => 0

def laneRecord (q : Quay) (l : Lane) : List Byte :=
  recordBytes
    [f8 l.phys, f8 l.logical, f8 l.state.code, o8 l.crane, f8 (q.station .lane l.phys).state.code,
     f8 l.qualifier.code, f16 (q.pulseShown l), f16 l.lockout.left, f16 l.window.left,
     fList (l.fifo.map truckRecord)]

/-! ## Gang records (R131) -/

def gangRecord (q : Quay) (g : Gang) : List Byte :=
  recordBytes
    [f8 g.num, f8 (q.station .crane (gangStation g.num)).state.code, f8 g.state.code,
     o8 (g.task.map (·.code)), o8 g.bay, f8 g.lastBay, fTimer g.timer]

/-! ## Station tables (R151) -/

def linkRecord (q : Quay) (l : Link) : List Byte :=
  let k := q.link l
  let urgent := (q.pool.filter fun f => f.link = l ∧ f.msg.urgent = true).length
  [byte k.state.code, byte k.score, byte k.quiet, onOff k.hold, byte urgent, byte (q.routineOn l), byte q.freeSlots]

def stationRecord (x : Station) : List Byte :=
  recordBytes [f8 x.num, o8 (x.role.map (·.code)), f8 x.state.code]

/-! ## The stream (R158) -/

/-- A number lies in the requested range. -/
def wanted (first count n : Nat) : Bool := decide (first ≤ n ∧ n < first + count)

/-- Station entries 1 to 30 (R151). -/
def stationRecords (q : Quay) (l : Link) (first count : Nat) : List (List Byte) :=
  if first = 0 then []
  else ((q.link l).stations.filter fun x => wanted first count x.num && decide (x.num ≤ 30)).map stationRecord

/-- The records a TABLE READ streams, formed now. -/
def tableRecords (q : Quay) (t : Table) (first count : Nat) : List (List Byte) :=
  match t with
  | .berth => if first = 0 then [] else (q.bays.filter fun b => wanted first count b.num).map q.bayRecord
  | .crane => if first = 0 then [] else (q.cranes.filter fun c => wanted first count c.num).map q.craneRecord
  | .move => ((List.range Config.moveRecords).filter fun n => wanted first count n).map q.moveRecord
  | .lane => if first = 0 then [] else (q.lanes.filter fun l => wanted first count l.phys).map q.laneRecord
  | .gang => if first = 0 then [] else (q.gangs.filter fun g => wanted first count g.num).map q.gangRecord
  | .craneLink => q.linkRecord .crane :: (q.stationRecords .crane first count)
  | .laneLink => q.linkRecord .lane :: (q.stationRecords .lane first count)

/-- The bytes of the held reply (12.3): a TABLE READ reply has result length FFh and its records behind it, each
after its own length. -/
def replyBytes (q : Quay) : Reply → List Byte
  | .plain code status results => [byte code, byte status.code, byte results.length] ++ results
  | .table t first count =>
    [byte Code.tableRead, 0, 0xFF] ++ (q.tableRecords t first count).flatMap fun r => byte r.length :: r

end Quay

end Sys2Proof.Machine
end

