-- ==== Sys2Proof/Machine/Port.lean ====
section
/-!
DEFINITION. The Planner Port's selections (chapter 9): TABLE_READ, UNKNOWN_REQUEST, REPLY, EVENTS, STATUS,
PORT_FORMAT, GUARD_END; and the quay clock's tick.
-/

namespace Sys2Proof.Machine

/-! Transfer codes (12.3). -/

namespace TransferCode

def request : Byte := 0x01
def reply : Byte := 0x02
def events : Byte := 0x03
def status : Byte := 0x04

end TransferCode

namespace Quay

/-! ## TABLE READ and requests of no name (R157, R158) -/

/-- TABLE READ: BAD_VALUE for no table; else the reply is placed at once, its records formed later (R158). -/
def tableReadServe (bytes : List Byte) (q : Quay) : Quay :=
  match opsTableRead bytes with
  | none => placeAnswer Code.tableRead (q.refuse .badValue)
  | some (t, first, count) =>
    match Table.ofCode t with
    | none => placeAnswer Code.tableRead (q.refuse .badValue)
    | some t => q.place (.table t first count)

/-- A request whose code names none is answered with BAD_REQUEST before any other check (R157). The reply to a
selection that carried no code shows code 00h (the model's choice, log entry 41). -/
def unknownRequest (q : Quay) (record : List Byte) : Quay :=
  if q.port.inHand then q.passOver
  else
    let q := q.takeRequest record.length
    placeAnswer ((record.head?.map (·.toNat)).getD 0) (q.refuse .badRequest)

/-! ## Read selections (R152, R155, R156, R160) -/

/-- The bytes of a REPLY selection: the status byte, then the reply if one is held (R155). -/
def replyStream (q : Quay) : List Byte :=
  q.statusByte :: (match q.port.reply with
    | some r => q.replyBytes r
    | none => [])

/-- The bytes of an EVENTS selection (R160). -/
def eventStream (q : Quay) : List Byte := q.statusByte :: q.events.flatMap Event.bytes

/-- What the host read in this selection. -/
def setSdo (q : Quay) (l : List Byte) : Quay := q.updPort fun x => { x with sdo := l }

/-- A selection without format error has ended, so the guard of an earlier one had ended (log entry 20). -/
def clearGuard (q : Quay) : Quay := q.updPort fun x => { x with guard := false }

/-- Reading a lane table uses the free value of the pulse timers once. -/
def countLaneRead (q : Quay) : Quay :=
  match q.port.reply with
  | some (.table .lane _ _) => q.countFree
  | _ => q

/-- A REPLY selection of `n` bytes: nothing is consumed (R155). -/
def readReply (q : Quay) (n : Nat) : Quay := (q.setSdo (q.replyStream.take n)).countLaneRead

/-- How many whole event records stand in `n` bytes of an EVENTS selection. -/
def wholeRecords (n : Nat) : Nat := (n - 1) / 16

/-- Each record leaves as its last byte goes out; emptying the queue clears the overflow mark (R160). -/
def takeEvents (q : Quay) (k : Nat) : Quay :=
  { q with
    events := q.events.drop k
    overflow := if 0 < k ∧ q.events ≠ [] ∧ q.events.length ≤ k then false else q.overflow }

/-- An EVENTS selection of `n` bytes (R160). -/
def readEvents (q : Quay) (n : Nat) : Quay := (q.setSdo (q.eventStream.take n)).takeEvents (wholeRecords n)

/-- A STATUS selection of `n` bytes: the status byte once out clears FORMAT_ERROR (R153, R156). -/
def readStatus (q : Quay) (n : Nat) : Quay :=
  let q' := q.setSdo ([q.statusByte].take n)
  if 0 < n then q'.updPort (fun x => { x with formatError := false }) else q'

/-- The bytes a read transfer has to give (R152); none for a transfer code that reads nothing. -/
def stream? (q : Quay) (code : Byte) : Option (List Byte) :=
  match code.toNat with
  | 2 => some q.replyStream
  | 3 => some q.eventStream
  | 4 => some [q.statusByte]
  | _ => none

/-- The first `n` bytes of a read transfer go out: REPLY keeps the reply, EVENTS gives up the records wholly out,
STATUS clears the flag that its byte showed (R153, R155, R160). -/
def giveBytes (q : Quay) (code : Byte) (n : Nat) : Quay :=
  match code.toNat with
  | 2 => q.readReply n
  | 3 => q.readEvents n
  | 4 => q.readStatus n
  | _ => q

/-- READY's rises in a selection that reads `n` of `len` bytes: for the transfer code, for each byte read, and once
more where another byte stands ready; after the last byte READY stays low (R152). -/
def readRises (len n : Nat) : Nat := if n < len then n + 2 else n + 1

/-! ## Format errors (R153) -/

/-- PORT_FORMAT: the transfer code as received, then the failing byte's index (R153, 12.3). -/
def portFormatEvent (code : Byte) (index : Nat) : Posting :=
  { kind := .portFormat, subject := .port, number := 0, detail := [code] ++ be16n index }

/-- The byte at which the error is found, the transfer code being byte 0: after the last byte a read transfer has to
give READY stays low (R152), so the first clock edge beyond it is the error, whatever comes later. -/
def failingByte (q : Quay) (code : Byte) (index : Nat) : Nat :=
  match q.stream? code with
  | some l => min index (l.length + 1)
  | none => index

/-- The failing byte lies beyond the last a read transfer has to give. -/
def beyondLast (q : Quay) (code : Byte) (i : Nat) : Bool := (q.stream? code).any fun l => decide (l.length < i)

/-- READY's rises in a selection whose byte `i` failed: once for each byte before it, and for the byte itself where it
was begun with READY high (R153, step 1). -/
def errorRises (q : Quay) (cause : FormatCause) (code : Byte) (i : Nat) : Nat :=
  match cause with
  | .badCode => 1
  | .earlyEdge => i
  | .midByte => if q.beyondLast code i then i else i + 1

/-- A format error (R153). What a read transfer gave before the failing byte stands as given; a request being written
is discarded. A REQUEST selection met while a request is in hand is ignored beyond its transfer code (R154). -/
def formatError (q : Quay) (cause : FormatCause) (code : Byte) (index : Nat) : Quay :=
  if q.port.inHand = true ∧ code = TransferCode.request ∧ index ≠ 0 then q.passOver
  else
    let i := q.failingByte code index
    let rises := q.errorRises cause code i
    let q := q.giveBytes code (i - 1)
    let q := q.updPort fun x => { x with formatError := true, ready := rises }
    let q := q.post (portFormatEvent code i)
    q.updPort fun x => { x with guard := true }

/-- A read selection in which the host clocks `n` bytes after the transfer code: served, or, where it clocks on after
the last byte the transfer has to give, a format error at the byte after that (R152, R153). -/
def readSelection (q : Quay) (code : Byte) (n : Nat) : Quay :=
  match q.stream? code with
  | none => q
  | some l =>
    if n ≤ l.length then
      ((q.giveBytes code n).updPort fun x => { x with ready := readRises l.length n }).clearGuard
    else q.formatError .earlyEdge code n

/-! ## The quay clock (R167) -/

/-- A second of the timers of a crane, a lane, a gang; the pulse timer counts 50 ms units and is not among them. -/
def tickCrane (x : Crane) : Crane :=
  { x with gantry := x.gantry.tick, accept := x.accept.tick, lift := x.lift.tick, truckWait := x.truckWait.tick }
def tickLane (x : Lane) : Lane := { x with lockout := x.lockout.tick, window := x.window.tick }
def tickGang (x : Gang) : Gang := { x with timer := x.timer.tick }

/-- One second of RUN: the clock advances and wraps (R167); the running timers' remaining times fall (log 8). -/
def tick (q : Quay) : Quay :=
  { q with
    clock := q.clock + 1, cranes := q.cranes.map tickCrane, lanes := q.lanes.map tickLane
    gangs := q.gangs.map tickGang }

end Quay

def execTableRead (record : List Byte) (s : State) : Host.Outcome State Fault Refusal :=
  s.next (s.quay.takeWith Code.tableRead record Quay.tableReadServe)

def execUnknownRequest (record : List Byte) (s : State) : Host.Outcome State Fault Refusal :=
  s.next (s.quay.unknownRequest record)

def execReply (n : Nat) (s : State) : Host.Outcome State Fault Refusal :=
  s.next (s.quay.readSelection TransferCode.reply n)

def execEvents (n : Nat) (s : State) : Host.Outcome State Fault Refusal :=
  s.next (s.quay.readSelection TransferCode.events n)

def execStatus (n : Nat) (s : State) : Host.Outcome State Fault Refusal :=
  s.next (s.quay.readSelection TransferCode.status n)

/-- A format error in a selection of the given transfer code (R153). What was written of a request is discarded: it
has no effect. -/
def execPortFormat (cause : FormatCause) (code : Byte) (index : Word16) (_written : List Byte) (s : State) :
    Host.Outcome State Fault Refusal :=
  s.next (s.quay.formatError cause code index.toNat)

def execGuardEnd (s : State) : Host.Outcome State Fault Refusal :=
  s.next s.quay.clearGuard

/-- The quay clock runs from ATTACH (R167). -/
def execQuayClockTick (s : State) : Host.Outcome State Fault Refusal :=
  s.next (if s.quay.stage = .run then s.quay.tick else s.quay)

end Sys2Proof.Machine
end

