-- ==== Sys2Proof/Machine/Startup.lean ====
section
/-!
DEFINITION. Start-up and profile (chapter 10): RESET, PROFILE_RECORD, PROFILE_READ, PROFILE_WRITE, ATTACH, and
PLAN_RESET with the reset rules of every block.
-/

namespace Sys2Proof.Machine

/-! ## ATTACH (R167) -/

/-- Bit k−1 of LANE_ENABLED: physical lane k is enabled (R162). -/
def laneEnabledBit (mask p : Nat) : Bool := mask.testBit (p - 1)

/-- The logical number of each physical lane 1..8 (R94). CONTIGUOUS counts the enabled lanes up to and including
the lane; REMAP takes its remap item. -/
def Quay.logicalOf (q : Quay) (p : Nat) : Nat :=
  let mask := q.item Item.laneEnabled
  if laneEnabledBit mask p then
    if q.item Item.laneMapMode = 0 then ((List.range 8).filter fun k => k < p ∧ laneEnabledBit mask (k + 1)).length
    else q.item (Item.laneRemap p)
  else 0

/-- The physical lanes. -/
def physicalLanes : List Nat := [1, 2, 3, 4, 5, 6, 7, 8]

/-- No number but 0 stands twice in a list. -/
def mappedOnce : List Nat → Bool
  | [] => true
  | x :: xs => (x = 0 || !xs.contains x) && mappedOnce xs

/-- Two mapped physical lanes carry the same logical number (R94). -/
def Quay.mapConflict (q : Quay) : Bool := !mappedOnce (physicalLanes.map q.logicalOf)

/-- BAY_COUNT is too small for the cranes (R167, check 3). -/
def Quay.craneMisfit (q : Quay) : Bool :=
  decide (q.item Item.bayCount < (q.item Item.craneCount - 1) * q.item Item.separation + 1)

/-- A lane record at ATTACH (R96). -/
def Quay.newLane (q : Quay) (p : Nat) : Lane :=
  { phys := p, logical := q.logicalOf p, state := if q.logicalOf p = 0 then .disabled else .closed, crane := none
    fifo := [], qualifier := .idle, pulse := .stopped, lockout := .stopped, window := .stopped }

/-- A bay record at ATTACH (R9). -/
def Quay.newBay (q : Quay) (b : Nat) : Bay :=
  { num := b, deckCount := 0, holdCount := 0, deckCap := q.item Item.deckCapDefault
    holdCap := q.item Item.holdCapDefault, hatch := .on, lash := .lashed }

/-- A crane context at ATTACH (R43, R93). -/
def newCrane (c : Nat) : Crane :=
  { num := c, state := .offline, bay := none, span := none, target := none, faultMark := false, spreader := .unknown
    enable := false, savedEnable := false, active := none, waiting := [], current := none, preempt := none
    stack := [], gantry := .stopped, accept := .stopped, lift := .stopped, truckWait := .stopped, late := 0 }

/-- A gang record at ATTACH (R119). -/
def newGang (g : Nat) : Gang :=
  { num := g, state := .idle, task := none, bay := none, lastBay := 0, timer := .stopped }

/-- Numbers 1 to n. -/
def upTo (n : Nat) : List Nat := List.range' 1 n

/-- The role of a station number on the crane link (R141). -/
def Quay.craneLinkRole (q : Quay) (n : Nat) : Option Role :=
  if 1 ≤ n ∧ n ≤ q.item Item.craneCount then some .crane
  else if 17 ≤ n ∧ n ≤ 16 + q.item Item.gangCount then some .gang
  else none

/-- The role of a station number on the lane link (R141). -/
def laneLinkRole (n : Nat) : Option Role := if 1 ≤ n ∧ n ≤ 8 then some .gate else none

/-- A station table with its roles, every entry OFFLINE (R141). -/
def stationsWith (role : Nat → Option Role) : List Station :=
  (List.range 32).map fun n => ⟨n, role n, .offline⟩

/-- A link controller goes to REJOIN at ATTACH: score 0, quiet count 0, the hold flag kept (R146, R167). -/
def LinkCtl.toRejoin (k : LinkCtl) : LinkCtl :=
  { k with state := .rejoin, score := 0, quiet := 0, complete := false }

/-- Steps 1 to 6 of R167: the quay plan's records and the clock. -/
def Quay.createPlan (q : Quay) : Quay :=
  { q with
    lanes := physicalLanes.map q.newLane
    bays := (upTo (q.item Item.bayCount)).map q.newBay
    orders := []
    assembly := none
    freeList := List.range Config.moveRecords
    moves := []
    cranes := (upTo (q.item Item.craneCount)).map newCrane
    gangs := (upTo (q.item Item.gangCount)).map newGang
    dispatch := []
    craneLink := { q.craneLink with stations := stationsWith q.craneLinkRole }
    laneLink := { q.laneLink with stations := stationsWith laneLinkRole }
    clock := 0 }

/-- An accepted ATTACH (R167): the plan, then RUN with QSTOP sampled, a stop starting if it is low (R132), then
both links to REJOIN. -/
def Quay.doAttach (q : Quay) : Quay :=
  let q := q.createPlan
  let q := q.setStage .run
  let q := if q.pins.qstopHigh then q else q.addSource .pin
  (q.updLink .crane LinkCtl.toRejoin).updLink .lane LinkCtl.toRejoin

/-- The judgement and carrying out of ATTACH (R167). -/
def Quay.attachAct (q : Quay) : Answer :=
  if q.stage = .run then q.refuse .stage
  else if q.mapConflict then q.refuse .mapConflict
  else if q.craneMisfit then q.refuse .craneFit
  else q.doAttach.ok

/-- ATTACH as a planner request (R167). -/
def execAttach (record : List Byte) (s : State) : Host.Outcome State Fault Refusal :=
  s.next (s.quay.request Code.attach record Quay.noPayload fun _ q => q.attachAct)

/-! ## The loader (R164 to R166) -/

/-- PROFILE_ITEM, with the refusal code of ITEM or RANGE (R165, 12.3). -/
def profileItemEvent (no : Nat) (why : Reason) : Posting :=
  { kind := .profileItem, subject := .profile, number := no, detail := [byte why.code] }

/-- PROFILE_FAILED: 0 LOADER, 1 MAP_CONFLICT, 2 CRANE_FIT (12.3). R166 gives the number 0 with LOADER; the same number with
the other two is the model's choice (log entry 47). -/
def profileFailedEvent (cause : Nat) : Posting :=
  { kind := .profileFailed, subject := .profile, number := 0, detail := [byte cause] }

/-- One value of a record to one item (R165). -/
def Quay.loadItem (q : Quay) (no : Nat) (v : Word16) : Quay :=
  match itemRow no with
  | none => q.post (profileItemEvent no .item)
  | some r => if r.admits v then q.setItem no v else q.post (profileItemEvent no .range)

/-- The values of a record to consecutive items (R165). -/
def Quay.loadItems (q : Quay) (no : Nat) : List Word16 → Quay
  | [] => q
  | v :: vs => (q.loadItem no v).loadItems (no + 1) vs

/-- Item numbers of CHAIN and END (R165). -/
def chainItem : Nat := 4094
def endItem : Nat := 4095

/-- A failed attempt (R166): defaults; the next attempt from address 0, or after the third the loader stops with
PROFILE_FAILED. -/
def Quay.attemptFails (q : Quay) : Quay :=
  let q := q.setProfile defaultProfile
  if q.loader.attempt < 3 then
    q.updLoader fun x => { x with attempt := x.attempt + 1, addr := 0, count := 0 }
  else (q.updLoader fun x => { x with running := false }).post (profileFailedEvent 0)

/-- A successful END (R165, R167): the loader stops; with AUTO_ATTACH 1, ATTACH is performed, its refusal posting
PROFILE_FAILED. -/
def Quay.loaderEnds (q : Quay) : Quay :=
  let q := q.updLoader fun x => { x with running := false }
  if q.item Item.autoAttach = 1 then
    let a := q.attachAct
    match a.status with
    | .mapConflict => a.quay.post (profileFailedEvent 1)
    | .craneFit => a.quay.post (profileFailedEvent 2)
    | _ => a.quay
  else q

/-- The address a CHAIN gives: the low byte of the first value followed by the second (R165). -/
def chainAddr (v1 v2 : Word16) : BitVec 24 := (v1.extractLsb' 0 8) ++ v2

/-- The loader goes on to the next record, unless the attempt has read 2048 (R166). -/
def Quay.loaderGoesOn (q : Quay) : Quay :=
  if Config.loaderRecords ≤ q.loader.count then q.attemptFails else q

/-- One whole record (R165): counted; a bad record, or a CHAIN without exactly two values, fails the attempt; a
good one acts by its item number. -/
def Quay.loaderRecord (q : Quay) (r : FlashRecord) : Quay :=
  let no := Header.itemNo r.header
  let q := q.updLoader fun x =>
    { x with addr := x.addr + BitVec.ofNat 24 (flashSize r), count := x.count + 1 }
  if !flashGood r then q.attemptFails
  else if no = endItem then q.loaderEnds
  else if no = chainItem then
    if Header.valueCount r.header = 2 then
      (q.updLoader fun x => { x with addr := chainAddr r.v1 r.v2 }).loaderGoesOn
    else q.attemptFails
  else if (itemRow no).isSome then (q.loadItems no (flashValues r)).loaderGoesOn
  else (q.post (profileItemEvent no .item)).loaderGoesOn

/-- PROFILE_RECORD: a loader that is stopped reads nothing (R164). -/
def execProfileRecord (r : FlashRecord) (s : State) : Host.Outcome State Fault Refusal :=
  s.next (if s.quay.loader.running then s.quay.loaderRecord r else s.quay)

/-! ## RESET (R164) -/

/-- RESET: every block takes its values after power-on or pin reset, and the loader starts its first attempt; the
input pins keep their levels (log entry 3). -/
def execReset (s : State) : Host.Outcome State Fault Refusal :=
  s.next { Quay.reset with pins := s.quay.pins, freeCount := s.quay.freeCount }

/-! ## PROFILE READ and PROFILE WRITE (R163) -/

/-- PROFILE READ answers the number, the value, the default and the stage rule, 0 CONFIG or 1 always (R163; codes:
log entry 22). -/
def Quay.profileReadAct (no : Nat) (q : Quay) : Answer :=
  match itemRow no with
  | none => q.refuse .item
  | some r =>
    ⟨q, .ok, be16n no ++ be16 (q.itemWord no) ++ be16n r.deflt ++ [byte (if r.config then 0 else 1)]⟩

/-- PROFILE WRITE's checks: ITEM, RANGE, STAGE (R163). -/
def Quay.profileWriteAct (ops : Nat × Word16) (q : Quay) : Answer :=
  match itemRow ops.1 with
  | none => q.refuse .item
  | some r =>
    if !r.admits ops.2 then q.refuse .range
    else if r.config ∧ q.stage = .run then q.refuse .stage
    else (q.setItem ops.1 ops.2).ok

def execProfileRead (record : List Byte) (s : State) : Host.Outcome State Fault Refusal :=
  s.next (s.quay.request Code.profileRead record ops16 Quay.profileReadAct)

def execProfileWrite (record : List Byte) (s : State) : Host.Outcome State Fault Refusal :=
  s.next (s.quay.request Code.profileWrite record ops16x2 Quay.profileWriteAct)

/-! ## PLAN RESET (R10, R20, R22, R43, R93, R96, R119) -/

/-- A move LIFTING or FAULTED, or a gang WORKING, refuses PLAN RESET (R10, R20, R119). -/
def Quay.planBusy (q : Quay) : Bool :=
  q.moves.any (fun m => m.state = .lifting || m.state = .faulted) || q.gangs.any (fun g => g.state = .working)

/-- A PERMITTED current move is withdrawn with cause RESET by steps 1 to 5 of R77 (R93). -/
def Quay.withdrawForReset (q : Quay) (c : Nat) : Quay :=
  match q.currentMove? c with
  | some m => if m.state = .permitted then q.withdrawCore c m .reset else q
  | none => q

/-- A crane context after PLAN RESET (R43, R93). -/
def Crane.planReset (x : Crane) : Crane :=
  { x with
    state := if x.state = .working then .idle else x.state
    active := none, waiting := [], current := none, preempt := none, stack := []
    accept := .stopped, truckWait := .stopped, late := 0 }

/-- A lane's trucks after PLAN RESET: unbound, misorder marks cleared (R96). -/
def Lane.planReset (l : Lane) : Lane :=
  { l with fifo := l.fifo.map fun t => { t with bound := none, misorder := false } }

/-- An ORDERED gang is sent LASH CANCEL and becomes IDLE, its last bay unchanged (R119). -/
def Quay.gangForReset (q : Quay) (g : Nat) : Quay :=
  match q.gang? g with
  | some x => if x.state = .ordered then (q.sendLashCancel x).gangToIdle g none else q
  | none => q

/-- Everything PLAN RESET empties or returns to its value at ATTACH, the permits withdrawn (R10, R20, R22, R43,
R96, R119, R120). -/
def Quay.dropPlan (q : Quay) : Quay :=
  { q with
    bays := q.bays.map fun b => q.newBay b.num
    orders := []
    assembly := none
    moves := []
    freeList := List.range Config.moveRecords
    cranes := q.cranes.map Crane.planReset
    lanes := q.lanes.map Lane.planReset
    dispatch := [] }

/-- PLAN RESET (R10, R20, R93, R96, R119). -/
def Quay.planResetAct (q : Quay) : Answer :=
  if q.planBusy then q.refuse .inFlight
  else
    let q := forEach (fun c q => q.withdrawForReset c) q.craneNums q
    let q := forEach (fun g q => q.gangForReset g) (q.gangs.map (·.num)) q
    q.dropPlan.ok

def execPlanReset (record : List Byte) (s : State) : Host.Outcome State Fault Refusal :=
  s.next (s.quay.request Code.planReset record Quay.noPayload fun _ q => q.planResetAct)

end Sys2Proof.Machine
end

