-- ==== Sys2Proof/Machine/Stops.lean ====
section
/-!
DEFINITION. The quay stop (chapter 7): QUAY_STOP, QUAY_RESUME, STOP, QSTOP_FALL, QSTOP_RISE.
-/

namespace Sys2Proof.Machine

namespace Quay

/-- QUAY STOP (R133). -/
def quayStopAct (q : Quay) : Answer := (q.addSource .planner).ok

/-- QUAY_RESUME (R137, step 5). -/
def quayResumeEvent (cleared : List Source) : Posting :=
  { kind := .quayResume, subject := .port, number := 0, detail := sourceSet cleared }

/-- A crane at the end of a stop: the enable takes the saved value, held timers run on (R137, steps 2 and 3). -/
def resumeCrane (x : Crane) : Crane :=
  { x with enable := x.savedEnable, lift := x.lift.resume, gantry := x.gantry.resume }

def resumeCranes (q : Quay) : Quay := { q with cranes := q.cranes.map resumeCrane }

/-- An accepted QUAY RESUME (R137, steps 1 to 6). -/
def endStop (q : Quay) : Quay :=
  let cleared := q.stop.sources
  let q := (q.setStop { q.stop with sources := [] }).resumeCranes
  let q := q.broadcastUrgent .quayResume
  (q.post (quayResumeEvent cleared)).judgeAll

/-- QUAY RESUME judged (R137). -/
def quayResumeAct (q : Quay) : Answer :=
  if !q.stopInForce then q.refuse .noStop
  else if !q.pins.qstopHigh then q.refuse .pinActive
  else q.endStop.ok

/-- The source a STOP frame adds (R133). Gates are no sources; their STOP is refused before it comes here. -/
def stopSource (q : Quay) (l : Link) (n : Nat) : Option Source :=
  match (q.station l n).role with
  | some .crane => some (.crane n)
  | some .gang => some (.gang (n - 16))
  | _ => none

def stopAct (l : Link) (n : Nat) (q : Quay) : Quay :=
  match q.stopSource l n with
  | some src => q.addSource src
  | none => q

end Quay

def execQuayStop (record : List Byte) (s : State) : Host.Outcome State Fault Refusal :=
  s.next (s.quay.request Code.quayStop record Quay.noPayload fun _ q => q.quayStopAct)

def execQuayResume (record : List Byte) (s : State) : Host.Outcome State Fault Refusal :=
  s.next (s.quay.request Code.quayResume record Quay.noPayload fun _ q => q.quayResumeAct)

def execStop (link : Link) (f : RxFrame) (s : State) : Host.Outcome State Fault Refusal :=
  s.next (s.quay.stationFrame link RxKind.stop f Quay.noPayload fun n _ q => q.stopAct link n)

/-- QSTOP falls from high to low; in RUN PIN joins the sources (R132, R133). -/
def execQstopFall (s : State) : Host.Outcome State Fault Refusal :=
  let q := s.quay
  let low := q.updPins fun x => { x with qstopHigh := false }
  s.next (if q.pins.qstopHigh = true ∧ q.stage = .run then low.addSource .pin else low)

/-- QSTOP rises: the bar on QUAY RESUME is lifted, PIN stays in the set (R133). -/
def execQstopRise (s : State) : Host.Outcome State Fault Refusal :=
  s.next (s.quay.updPins fun x => { x with qstopHigh := true })

end Sys2Proof.Machine
end

