-- ==== Sys2Proof/Machine/Dispatch.lean ====
section
/-!
DEFINITION. The dispatch: one arm per command, each one direct call of its meaning.
-/

namespace Sys2Proof.Machine

def exec (i : Instr) (s : State) : Host.Outcome State Fault Refusal :=
  match i with
  | .reset => Sys2Proof.Machine.execReset s
  | .profileRecord r => Sys2Proof.Machine.execProfileRecord r s
  | .profileRead record => Sys2Proof.Machine.execProfileRead record s
  | .profileWrite record => Sys2Proof.Machine.execProfileWrite record s
  | .attach record => Sys2Proof.Machine.execAttach record s
  | .planReset record => Sys2Proof.Machine.execPlanReset record s
  | .berthLoad record => Sys2Proof.Machine.execBerthLoad record s
  | .orderOpen record => Sys2Proof.Machine.execOrderOpen record s
  | .orderEntries record => Sys2Proof.Machine.execOrderEntries record s
  | .orderClose record => Sys2Proof.Machine.execOrderClose record s
  | .orderCancel record => Sys2Proof.Machine.execOrderCancel record s
  | .moveDefer record => Sys2Proof.Machine.execMoveDefer record s
  | .moveReinstate record => Sys2Proof.Machine.execMoveReinstate record s
  | .moveClearDone record => Sys2Proof.Machine.execMoveClearDone record s
  | .moveClearRetry record => Sys2Proof.Machine.execMoveClearRetry record s
  | .moveClearCancel record => Sys2Proof.Machine.execMoveClearCancel record s
  | .craneEnable record => Sys2Proof.Machine.execCraneEnable record s
  | .craneClear record => Sys2Proof.Machine.execCraneClear record s
  | .gangClear record => Sys2Proof.Machine.execGangClear record s
  | .laneOpen record => Sys2Proof.Machine.execLaneOpen record s
  | .laneClose record => Sys2Proof.Machine.execLaneClose record s
  | .laneClear record => Sys2Proof.Machine.execLaneClear record s
  | .laneAssign record => Sys2Proof.Machine.execLaneAssign record s
  | .quayStop record => Sys2Proof.Machine.execQuayStop record s
  | .quayResume record => Sys2Proof.Machine.execQuayResume record s
  | .linkHold record => Sys2Proof.Machine.execLinkHold record s
  | .tableRead record => Sys2Proof.Machine.execTableRead record s
  | .reply n => Sys2Proof.Machine.execReply n s
  | .events n => Sys2Proof.Machine.execEvents n s
  | .status n => Sys2Proof.Machine.execStatus n s
  | .portFormat cause code index written => Sys2Proof.Machine.execPortFormat cause code index written s
  | .guardEnd => Sys2Proof.Machine.execGuardEnd s
  | .malformedFrame link raw => Sys2Proof.Machine.execMalformedFrame link raw s
  | .join link f => Sys2Proof.Machine.execJoin link f s
  | .leave link f => Sys2Proof.Machine.execLeave link f s
  | .stop link f => Sys2Proof.Machine.execStop link f s
  | .qstopFall => Sys2Proof.Machine.execQstopFall s
  | .gantryReq f => Sys2Proof.Machine.execGantryReq f s
  | .arrived f => Sys2Proof.Machine.execArrived f s
  | .spreaderSet f => Sys2Proof.Machine.execSpreaderSet f s
  | .liftStart f => Sys2Proof.Machine.execLiftStart f s
  | .liftDone f => Sys2Proof.Machine.execLiftDone f s
  | .liftFail f => Sys2Proof.Machine.execLiftFail f s
  | .spot f => Sys2Proof.Machine.execSpot f s
  | .lashStart f => Sys2Proof.Machine.execLashStart f s
  | .lashDone f => Sys2Proof.Machine.execLashDone f s
  | .lashDecline f => Sys2Proof.Machine.execLashDecline f s
  | .truckEnter f => Sys2Proof.Machine.execTruckEnter f s
  | .truckSet f => Sys2Proof.Machine.execTruckSet f s
  | .truckExit f => Sys2Proof.Machine.execTruckExit f s
  | .obsActivation lane => Sys2Proof.Machine.execObsActivation lane s
  | .obsInactive lane => Sys2Proof.Machine.execObsInactive lane s
  | .pulseTimerExpiry lane => Sys2Proof.Machine.execPulseTimerExpiry lane s
  | .lockoutTimerExpiry lane => Sys2Proof.Machine.execLockoutTimerExpiry lane s
  | .windowTimerExpiry lane => Sys2Proof.Machine.execWindowTimerExpiry lane s
  | .gantryTimerExpiry crane => Sys2Proof.Machine.execGantryTimerExpiry crane s
  | .acceptanceTimerExpiry crane => Sys2Proof.Machine.execAcceptanceTimerExpiry crane s
  | .liftTimerExpiry crane => Sys2Proof.Machine.execLiftTimerExpiry crane s
  | .truckWaitTimerExpiry crane => Sys2Proof.Machine.execTruckWaitTimerExpiry crane s
  | .lashTimerExpiry gang => Sys2Proof.Machine.execLashTimerExpiry gang s
  | .attempt link => Sys2Proof.Machine.execAttempt link s
  | .delivered link => Sys2Proof.Machine.execDelivered link s
  | .failedAttempt link => Sys2Proof.Machine.execFailedAttempt link s
  | .quietCountComplete link => Sys2Proof.Machine.execQuietCountComplete link s
  | .qstopRise => Sys2Proof.Machine.execQstopRise s
  | .quietInterval link => Sys2Proof.Machine.execQuietInterval link s
  | .quayClockTick => Sys2Proof.Machine.execQuayClockTick s
  | .unknownRequest record => Sys2Proof.Machine.execUnknownRequest record s

end Sys2Proof.Machine
end

