-- ==== Sys2Proof/Machine/Step.lean ====
section
/-!
DEFINITION. One step: the command at the front of the queue is carried out; with an empty queue the part idles (log
entry 2).
-/

namespace Sys2Proof.Machine

/-- The command at the front leaves the queue and takes its whole effect (95: each step whole and indivisible). -/
def step (s : State) : Host.Outcome State Fault Refusal :=
  match s.pending with
  | [] => .next s
  | c :: rest => exec c { s with pending := rest }

/-- The command a word spells is put at the front of the queue; a word that spells none changes nothing. No row of
the table gives bits, so no word spells a command (log entry 4). -/
def State.withFetchWord (s : State) (nbits w : Nat) : State :=
  match decodeTableWord nbits w with
  | some c => { s with pending := c :: s.pending }
  | none => s

end Sys2Proof.Machine
end

