-- ==== Sys2Proof/WellFormed.lean ====
section
/-!
DEFINITION. Which commands are well-formed: the operands lie where the spec lets the event arise. Contents that the
spec judges itself (short records, values out of range, an unknown bay) are well-formed and are refused by the
meaning.
-/

namespace Sys2Proof

open Sys2Proof.Machine

/-- A frame that is well-formed as a frame (R140): its payload has at most 12 bytes, its sender is not 0 or 31. -/
def RxFrame.wellFormed (f : RxFrame) : Bool :=
  decide (f.payload.length ≤ 12) && decide (stationNumber f.src ≠ 0 ∧ stationNumber f.src ≠ 31)

/-- The outcome byte of a MOVE CLEAR record, where it has one: operand length (2), move number (2), outcome. -/
def moveClearOutcome (record : List Byte) : Option Nat := (record[4]?).map (·.toNat)

/-- A MOVE CLEAR record belongs to the row of an outcome: it names that outcome, or none of the three. -/
def ofOutcome (k : Nat) (record : List Byte) : Bool :=
  match moveClearOutcome record with
  | some n => decide (n = k ∨ 2 < n)
  | none => true

/-- A transfer code that names a transfer (12.3). -/
def namesTransfer (code : Byte) : Bool := decide (1 ≤ code.toNat ∧ code.toNat ≤ 4)

/-- What stands written before the failing byte: the record's bytes in a REQUEST selection, the transfer code being
byte 0; nothing in the others, which are read. -/
def writtenFits (code : Byte) (index : Word16) (written : List Byte) : Bool :=
  decide (written.length = if code.toNat = 1 then index.toNat - 1 else 0)

/-- A request record without code, or whose first byte names no request (R157). -/
def namesNoRequest (record : List Byte) : Bool :=
  match record with
  | [] => true
  | c :: _ => decide (c.toNat = 0 ∨ 0x17 < c.toNat)

/-- A number from 1 to a bound. -/
def within (n bound : Nat) : Bool := decide (1 ≤ n ∧ n ≤ bound)

/-- The checks of a command's operands. -/
def Instr.wellFormed : Instr → Bool
  | .moveClearDone r => ofOutcome 0 r
  | .moveClearRetry r => ofOutcome 1 r
  | .moveClearCancel r => ofOutcome 2 r
  | .portFormat cause code index written =>
    writtenFits code index written &&
      match cause with
      | .badCode => decide (index = 0) && !namesTransfer code
      | .midByte | .earlyEdge => decide (index = 0) || namesTransfer code
  | .malformedFrame l raw => malformedOn l raw
  | .join _ f | .leave _ f | .stop _ f => f.wellFormed
  | .gantryReq f | .arrived f | .spreaderSet f | .liftStart f | .liftDone f | .liftFail f | .spot f => f.wellFormed
  | .lashStart f | .lashDone f | .lashDecline f | .truckEnter f | .truckSet f | .truckExit f => f.wellFormed
  | .obsActivation p | .obsInactive p | .pulseTimerExpiry p => within p 8
  | .lockoutTimerExpiry p | .windowTimerExpiry p => within p 8
  | .gantryTimerExpiry c | .acceptanceTimerExpiry c | .liftTimerExpiry c | .truckWaitTimerExpiry c => within c 6
  | .lashTimerExpiry g => within g 8
  | .unknownRequest r => namesNoRequest r
  | _ => true

end Sys2Proof
end

