-- ==== Sys2Proof/Safety.lean ====
section
/-!
DEFINITION. The predicates that statements about the machine are made of: when a command is taken, what a reply says,
which parts of the state a command may change, and the laws of the spec as predicates over the part.
-/

namespace Sys2Proof.Machine

namespace Quay

/-! ## When a command is taken -/

/-- A request of RUN is taken and passes the checks of R157 and R169; `bytes` are its operands. -/
abbrev takes (q : Quay) (record bytes : List Byte) : Prop :=
  q.port.inHand = false ∧ q.loader.running = false ∧ q.stage = .run ∧ recordOperands record = .ok bytes

/-- A request allowed in CONFIG and RUN is taken and passes the checks of R157 and R169. -/
abbrev takesAnyStage (q : Quay) (record bytes : List Byte) : Prop :=
  q.port.inHand = false ∧ q.loader.running = false ∧ recordOperands record = .ok bytes

/-- The reply held is the answer of a request: its code, its reason and its results (R155). -/
abbrev answers (q : Quay) (code : Nat) (why : Reason) (results : List Byte) : Prop :=
  q.port.reply = some (.plain code why results) ∧ q.port.inHand = false

/-- A frame reaches the station table as a well-formed frame of station `n` (R140). -/
abbrev hears (q : Quay) (l : Link) (f : RxFrame) (n : Nat) : Prop :=
  q.linkCarries l = true ∧ stationNumber f.src = n ∧ n ≠ 0 ∧ n ≠ 31 ∧ f.payload.length ≤ 12 ∧
    (stationNumber f.dest = 0 ∨ stationNumber f.dest = 31)

/-- A frame of an ONLINE station of a role (R141). -/
abbrev hearsFrom (q : Quay) (l : Link) (f : RxFrame) (n : Nat) (r : Role) : Prop :=
  q.hears l f n ∧ (q.station l n).state = .online ∧ (q.station l n).role = some r

/-- The command by which a source joins the active sources of the stop (R133). -/
def brings (q : Quay) (c : Instr) (src : Source) : Prop :=
  match c with
  | .quayStop record => src = .planner ∧ ∃ bytes, q.takes record bytes
  | .qstopFall => src = .pin ∧ q.pins.qstopHigh = true ∧ q.stage = .run
  | .stop l f =>
    (∃ n, q.hearsFrom l f n .crane ∧ src = .crane n) ∨ (∃ n, q.hearsFrom l f n .gang ∧ src = .gang (n - 16))
  | _ => False

/-- No move of a crane can be granted: its permit enable is off or its state is not WORKING (R72). -/
abbrev cannotGrant (q : Quay) (c : Nat) : Prop :=
  (q.crane? c).all (fun x => !x.enable || decide (x.state ≠ .working)) = true

/-- The state with the answer of a request placed: nothing but the port changes (R154, R155). READY rose for the
transfer code, for the request code and each byte of `record`, and once when the last had been taken (R152). -/
def replied (q : Quay) (record : List Byte) (code : Nat) (why : Reason) (results : List Byte) : Quay :=
  q.updPort fun x =>
    { x with inHand := false, reply := some (.plain code why results), guard := false, ready := record.length + 3 }

/-- The state with a request refused: the reply carries the reason and the result byte of a shared code (12.1). -/
def refused (q : Quay) (record : List Byte) (code : Nat) (why : Reason) : Quay :=
  q.replied record code why why.resultByte

/-- On the way from `q` to `t` the record of `p` was posted: by a part with q's profile and clock, whose queue had
grown out of q's and grows into t's (R159). -/
def reports (q t : Quay) (p : Posting) : Prop :=
  ∃ x : Quay, x.profile = q.profile ∧ x.clock = q.clock ∧ q.events <+: x.events ∧ (x.post p).events <+: t.events

/-- A candidate span of a crane passes the separation test (R45): SEPARATION bays to every span on either side. -/
def spanFits (q : Quay) (c : Nat) (cand : Span) : Prop :=
  ∀ d ∈ q.cranes, ∀ sp, d.span = some sp →
    (d.num < c → sp.high + q.item Item.separation ≤ cand.low) ∧
    (c < d.num → cand.high + q.item Item.separation ≤ sp.low)

/-- Bay `b` was given back and a dispatch made (R120, R121): `gangs` and `list` are the gang records and the dispatch
list as the give-back finds them. Either `b` stands at the head of the list and no gang is ordered, there being no IDLE
ONLINE gang or no slot for LASH ORDER; or the IDLE ONLINE gang nearest to `b`, the lowest-numbered of several, is
ORDERED for it with its task and T_LASH, LASH ORDER is queued, and `b` has left the list. -/
def givenBack (t : Quay) (gangs : List Gang) (list : List Nat) (b : Nat) : Prop :=
  let free := gangs.filter fun g => g.state = .idle ∧ (t.station .crane (16 + g.num)).state = .online
  (t.gangs = gangs ∧ t.dispatch = b :: list.filter (fun x => x ≠ b) ∧ (free = [] ∨ t.routineSlot .crane = false)) ∨
  ∃ g ∈ free,
    (∀ y ∈ free, bayDistance g.lastBay b ≤ bayDistance y.lastBay b ∧
      ((gangs.map (·.num)).Pairwise (· < ·) → bayDistance y.lastBay b = bayDistance g.lastBay b → g.num ≤ y.num)) ∧
    b ∉ t.dispatch ∧ t.dispatch.Sublist list ∧
    let task : LashTask := if (t.bay? b).any (fun x => x.lash = .lashDue) then .lash else .unlash
    { g with
      state := .ordered, task := some task, bay := some b
      timer := .running (t.item Item.tLash) } ∈ t.gangs ∧
    ∃ f ∈ t.pool, f.link = .crane ∧ f.dest = 16 + g.num ∧ f.msg = .lashOrder task b

/-- A dispatch (R121) made from gang records and a dispatch list leaves other records and another list. It rests where
the list is empty, no gang is IDLE with its station ONLINE, or the pool gives no slot for LASH ORDER; else the head bay's
LASH ORDER is queued, the nearest such gang, the lowest-numbered of several, is ORDERED for the bay with its task and
T_LASH, the bay leaves the list, and the dispatch repeats with the new head. -/
inductive Dispatched (t : Quay) : List Gang → List Nat → List Gang → List Nat → Prop where
  | rests (gangs : List Gang) (list : List Nat)
      (done : list = [] ∨ (∀ g ∈ gangs, g.state = .idle → (t.station .crane (16 + g.num)).state ≠ .online) ∨
        t.routineSlot .crane = false) : Dispatched t gangs list gangs list
  | orders (gangs : List Gang) (b : Nat) (rest : List Nat) (g : Gang) (task : LashTask) (gangs' : List Gang)
      (list' : List Nat) (free : g ∈ gangs ∧ g.state = .idle ∧ (t.station .crane (16 + g.num)).state = .online)
      (nearest : ∀ y ∈ gangs, y.state = .idle → (t.station .crane (16 + y.num)).state = .online →
        bayDistance g.lastBay b ≤ bayDistance y.lastBay b ∧
        ((gangs.map (·.num)).Pairwise (· < ·) → bayDistance y.lastBay b = bayDistance g.lastBay b → g.num ≤ y.num))
      (due : task = if (t.bay? b).any (fun x => x.lash = .lashDue) then .lash else .unlash)
      (told : ∃ f ∈ t.pool, f.link = .crane ∧ f.dest = 16 + g.num ∧ f.msg = .lashOrder task b)
      (more : Dispatched t
        (gangs.map fun y => if y.num = g.num then
          { y with state := .ordered, task := some task, bay := some b, timer := .running (t.item Item.tLash) } else y)
        (rest.filter fun x => x ≠ b) gangs' list') : Dispatched t gangs (b :: rest) gangs' list'

/-- On the way from `q` to `t` a routine frame was queued, or, the pool giving no slot, dropped with FRAME_DROPPED
(R148, R150): by a part `x` with q's profile, clock and link states, whose pool and events grew into t's. -/
def sent (q t : Quay) (l : Link) (dest : Nat) (msg : TxMsg) : Prop :=
  ∃ x : Quay, x.profile = q.profile ∧ x.clock = q.clock ∧ (∀ k, x.linkCarries k = q.linkCarries k) ∧
    q.events <+: x.events ∧ (x.sendRoutine l dest msg).pool <+: t.pool ∧ (x.sendRoutine l dest msg).events <+: t.events

/-- Truck `y` heads lane `l` unbound, and the lane is assigned to crane `c` and OPEN or CAUTION (R109 to R111); a truck
that is leaving is none (log entry 12). -/
def freeHead (q : Quay) (c : Nat) (leaving : Option Word16) (l : Lane) (y : Truck) : Prop :=
  l ∈ q.lanes ∧ l.crane = some c ∧ (l.state = .opened ∨ l.state = .caution) ∧ l.fifo.head? = some y ∧
    y.bound = none ∧ some y.tag ≠ leaving

/-- Of the free heads that pass a test, the one in the lane of lowest logical number (R109, R110). -/
def firstHead (q : Quay) (c : Nat) (leaving : Option Word16) (test : Truck → Bool) (l : Lane) (y : Truck) : Prop :=
  q.freeHead c leaving l y ∧ test y = true ∧ ∀ k z, q.freeHead c leaving k z → test z = true → k = l ∨ l.logical < k.logical

/-- Lane `l` is assigned to crane `c`, OPEN, and its gate is ONLINE: a truck may be called to it (R107). -/
def callable (q : Quay) (c : Nat) (l : Lane) : Prop :=
  l ∈ q.lanes ∧ l.crane = some c ∧ l.state = .opened ∧ (q.station .lane l.phys).state = .online

/-- Truck `tr` of lane `l` was released with the given load (R112): it has left the lane's FIFO, and TRUCK RELEASE was
queued as an urgent frame where the gate is ONLINE. Frames queued afterwards stand behind. -/
def released (q t : Quay) (tr : TruckRef) (l : Lane) (load : LoadState) (box partner : Option Word32) : Prop :=
  (t.lanes.map fun x => (x.phys, x.fifo.map (·.tag))) = (q.lanes.map fun x =>
    (x.phys, if x.phys = l.phys then (x.fifo.map (·.tag)).filter fun g => g ≠ tr.tag else x.fifo.map (·.tag))) ∧
  ((q.station .lane l.phys).state = .online →
    (q.sendUrgent .lane l.phys (.truckRelease tr.tag l.logical load box partner)).pool <+: t.pool) ∧
  ((q.station .lane l.phys).state ≠ .online → q.pool <+: t.pool)

/-- The permit of move `m` of crane `c` was withdrawn with a cause (R77, R78): PERMIT_LAPSED was posted under the old
stamp, and PERMIT WITHDRAW queued as an urgent frame. Frames queued afterwards stand behind. -/
def lapsed (q t : Quay) (c : Nat) (m : Move) (cause : Lapse) : Prop :=
  q.reports t { kind := .permitLapsed, subject := .move, number := m.num, detail := [byte cause.code], stamp := m.stamp } ∧
  (q.sendUrgent .crane c (.permitWithdraw (m.stamp.getD 0) cause)).pool <+: t.pool

/-- The permit of move `m` of crane `c` withdrawn with a cause that sends a frame, by steps 1 to 5 of R77. -/
def withdrawn (q : Quay) (c : Nat) (m : Move) (cause : Lapse) : Quay :=
  (((q.updCrane c fun x => { x with accept := .stopped }).updMove m.num fun x =>
    { x with stamp := none, state := if m.isHatch then .staged else .matched }).sendUrgent .crane c
      (.permitWithdraw (m.stamp.getD 0) cause)).post
    { kind := .permitLapsed, subject := .move, number := m.num, detail := [byte cause.code], stamp := m.stamp }

/-- Move `m`, LIFTING, became FAULTED with a cause (R87, R55): MOVE_FAULT and CRANE_FAULT were posted, the move keeps its
stamp and truck, its crane has the fault mark, no lift timer and not the move. -/
def wentFaulty (q t : Quay) (c : Nat) (m : Move) (cause : Byte) : Prop :=
  q.reports t { kind := .moveFault, subject := .move, number := m.num, detail := [cause], stamp := m.stamp } ∧
  q.reports t { kind := .craneFault, subject := .crane, number := c, detail := [0] } ∧
  t.move? m.num = some { m with state := .faulted } ∧
  ∀ x ∈ t.cranes, x.num = c → x.faultMark = true ∧ x.lift = .stopped ∧ x.current ≠ some m.num

/-- The truck of move `m`, of the given tag, was unbound and the move put back to STAGED (R71). -/
def parted (q : Quay) (m : Move) (tag : Word16) : Quay :=
  (q.updTruck tag fun y => { y with bound := none }).updMove m.num fun x => { x with truck := none, state := .staged }

/-- The part while a request is served: in hand, the earlier reply gone, the guard ended, READY's rises counted (R152,
R154). -/
def serving (q : Quay) (record : List Byte) : Quay :=
  q.updPort fun x => { x with inHand := true, reply := none, guard := false, ready := record.length + 3 }

/-- The part once the reply of the request in hand is placed (R155). -/
def answered (q : Quay) (code : Nat) (why : Reason) (results : List Byte) : Quay :=
  q.updPort fun x => { x with inHand := false, reply := some (.plain code why results) }

/-- A taken JOIN of station `n` (R142, R138): STATION_JOIN was posted, and the stop state queued as an urgent frame after
the frames queued before it; `first` is the part with the first of those, JOIN ACK, queued. -/
def joinTaken (q t : Quay) (l : Link) (n : Nat) (first : Quay) : Prop :=
  q.reports t { kind := .stationJoin, subject := .station, number := n
                detail := [byte (linkNumber l), byte (q.station l n).state.code] } ∧
  ∃ x : Quay, (∀ k, x.linkCarries k = q.linkCarries k) ∧ first.pool <+: x.pool ∧
    t.pool = (x.sendUrgent l n (if q.stop.sources = [] then .quayResume
      else .quayStop (q.stop.first.getD .pin) (q.stop.start.getD 0))).pool

/-- IDLE or WORKING by the test of R44: WORKING where the crane's active order is for the bay. -/
def restsAs (q : Quay) (c : Nat) (bay : Option Nat) : CraneState :=
  if (q.activeOrder? c).any (fun o => bay = some o.bay) = true then .working else .idle

/-- Of some moves, `m` is an order's first (R35): the QUEUED one of lowest issue position, or, where none is QUEUED, the one
of lowest issue position. -/
def leads (moves : List Move) (slot : Nat) (m : Move) : Prop :=
  m ∈ moves ∧ m.order = slot ∧ ∀ y ∈ moves, y.order = slot →
    y = m ∨ (m.state = .queued ∧ y.state ≠ .queued) ∨ ((m.state = .queued ↔ y.state = .queued) ∧ m.pos < y.pos)

/-- Crane `n`, before `cr` and now `x`, has lost its active order, which left the table, and has another by R35: the pending
order (R62), else the top of the stack, popped (R64), else the head of its list if its station is ONLINE; the ONLINE crane
is sent WORK NOTICE for it, with the class of its first move; IDLE or WORKING, the crane is settled (R44). (HOLD_POP shows
the bay of an entry pushed without a bay as 0: log entry 32.) -/
def takesUp (q t : Quay) (n gone : Nat) (cr x : Crane) : Prop :=
  (∀ p, cr.preempt = some p → p ≠ gone → (q.order? p).isSome = true →
    x.active = some p ∧ x.preempt = none ∧ x.stack = cr.stack ∧ x.enable = cr.enable ∧
      x.savedEnable = cr.savedEnable ∧ (t.order? p).map (·.state) = some .active) ∧
  (∀ e rest eo, cr.preempt = none → cr.stack = e :: rest → e.order ≠ gone → q.order? e.order = some eo →
    x.active = some e.order ∧ x.stack = rest ∧ (t.order? e.order).map (·.state) = some .active ∧
      (q.stop.sources ≠ [] → x.savedEnable = e.enable ∧ x.enable = cr.enable) ∧
      (q.stop.sources = [] → x.enable = e.enable ∧ x.savedEnable = cr.savedEnable) ∧
      q.reports t { kind := .holdPop, subject := .crane, number := n
                    detail := be16 eo.tag ++ optByte e.bay ++ [if cr.bay = e.bay then 0 else 1] }) ∧
  (∀ w ws, cr.preempt = none → cr.stack = [] → cr.waiting = w :: ws →
    ((q.station .crane n).state = .online → w ≠ gone → (q.order? w).isSome = true →
      x.active = some w ∧ x.waiting = ws ∧ (t.order? w).map (·.state) = some .active) ∧
    ((q.station .crane n).state ≠ .online → x.active = none ∧ x.waiting = cr.waiting)) ∧
  (cr.preempt = none → cr.stack = [] → cr.waiting = [] → x.active = none) ∧
  (∀ w wo m, x.active = some w → w ≠ gone → q.order? w = some wo → (q.station .crane n).state = .online →
    (∀ c y, q.currentMove? c = some y → y.order ≠ w) → leads q.moves w m →
    q.sent t .crane n (.workNotice wo.tag wo.bay wo.sect m.cls)) ∧
  x.state = if cr.state = .idle ∨ cr.state = .working then t.restsAs n cr.bay else cr.state

end Quay

/-- What a live move carries from its creation to its end (R21, R30). -/
def Move.fixed (m : Move) :
    Nat × Nat × Nat × Nat × BaySection × OrderKind × LiftClass × Option Nat × Option Nat × Option Word32 ×
      Option Word32 × Nat × Nat :=
  (m.num, m.order, m.crane, m.bay, m.sect, m.kind, m.cls, m.row, m.tier, m.box, m.partner, m.group, m.pos)

/-- A move fits its bay: the hatch and count conditions of its row of R11, which R12's effect needs. -/
def Bay.fits (b : Bay) (m : Move) : Prop :=
  match m.kind, m.sect with
  | .discharge, .deck => b.hatch = .on ∧ m.cls.boxes ≤ b.deckCount
  | .load, .deck => b.hatch = .on ∧ b.deckCount + m.cls.boxes ≤ b.deckCap
  | .discharge, .hold => b.hatch = .off ∧ m.cls.boxes ≤ b.holdCount
  | .load, .hold => b.hatch = .off ∧ b.holdCount + m.cls.boxes ≤ b.holdCap
  | .hatchOff, _ => b.hatch = .on ∧ b.deckCount = 0
  | .hatchOn, _ => b.hatch = .off

/-- A bay's stored fields but its deck lash state: what the effect of a done move may change (R12). -/
def Bay.stow (b : Bay) : Nat × Nat × Nat × Nat × Nat × Hatch :=
  (b.num, b.deckCount, b.holdCount, b.deckCap, b.holdCap, b.hatch)

/-- What the rules of lane states write in a lane record (R97 to R101). -/
def Lane.course (l : Lane) : Nat × LaneState × Timer × Timer := (l.phys, l.state, l.lockout, l.window)

/-- The tags in a lane's FIFO (R102). -/
def Lane.tags (l : Lane) : Nat × List Word16 := (l.phys, l.fifo.map (·.tag))

/-- The link, the kind code and the frame of the rows that are frames of a station judged by R141. JOIN is judged by
R142. -/
def stationRow : Instr → Option (Link × Nat × RxFrame)
  | .leave l f => some (l, RxKind.leave, f)
  | .stop l f => some (l, RxKind.stop, f)
  | .gantryReq f => some (.crane, RxKind.gantryReq, f)
  | .arrived f => some (.crane, RxKind.arrived, f)
  | .spreaderSet f => some (.crane, RxKind.spreaderSet, f)
  | .liftStart f => some (.crane, RxKind.liftStart, f)
  | .liftDone f => some (.crane, RxKind.liftDone, f)
  | .liftFail f => some (.crane, RxKind.liftFail, f)
  | .spot f => some (.crane, RxKind.spot, f)
  | .lashStart f => some (.crane, RxKind.lashStart, f)
  | .lashDone f => some (.crane, RxKind.lashDone, f)
  | .lashDecline f => some (.crane, RxKind.lashDecline, f)
  | .truckEnter f => some (.lane, RxKind.truckEnter, f)
  | .truckSet f => some (.lane, RxKind.truckSet, f)
  | .truckExit f => some (.lane, RxKind.truckExit, f)
  | _ => none

/-- The least payload each kind is measured against (R168, 12.2). -/
def payloadLength (kind : Nat) : Nat :=
  if kind = RxKind.leave ∨ kind = RxKind.stop then 0
  else if kind = RxKind.liftStart ∨ kind = RxKind.truckSet ∨ kind = RxKind.truckExit then 2
  else if kind = RxKind.liftFail then 3
  else if kind = RxKind.liftDone ∨ kind = RxKind.truckEnter then 11
  else 1

/-- The request code and record of the rows that are requests of the introduction's list. -/
def requestRow : Instr → Option (Nat × List Byte)
  | .profileRead r => some (Code.profileRead, r)
  | .profileWrite r => some (Code.profileWrite, r)
  | .attach r => some (Code.attach, r)
  | .planReset r => some (Code.planReset, r)
  | .berthLoad r => some (Code.berthLoad, r)
  | .orderOpen r => some (Code.orderOpen, r)
  | .orderEntries r => some (Code.orderEntries, r)
  | .orderClose r => some (Code.orderClose, r)
  | .orderCancel r => some (Code.orderCancel, r)
  | .moveDefer r => some (Code.moveDefer, r)
  | .moveReinstate r => some (Code.moveReinstate, r)
  | .moveClearDone r | .moveClearRetry r | .moveClearCancel r => some (Code.moveClear, r)
  | .craneEnable r => some (Code.craneEnable, r)
  | .craneClear r => some (Code.craneClear, r)
  | .gangClear r => some (Code.gangClear, r)
  | .laneOpen r => some (Code.laneOpen, r)
  | .laneClose r => some (Code.laneClose, r)
  | .laneClear r => some (Code.laneClear, r)
  | .laneAssign r => some (Code.laneAssign, r)
  | .quayStop r => some (Code.quayStop, r)
  | .quayResume r => some (Code.quayResume, r)
  | .linkHold r => some (Code.linkHold, r)
  | .tableRead r => some (Code.tableRead, r)
  | _ => none

/-- The groups in which statements about the commands are made. -/
inductive Family where
  | port | orders | cranes | lanesAndGangs | linksAndStop
deriving DecidableEq, Repr

/-! ## Which parts of the state may change -/

/-- The parts of the state. `standing` is where the cranes stand: number, bay and span of each (R42); `events` is the
Event Queue with its overflow mark; `queue` is the commands that wait. -/
inductive Part where
  | pins | profile | stage | loader | clock | bays | orders | assembly | freeList | moves | cranes | standing
  | grantCounter | lanes | gangs | dispatch | stop | craneLink | laneLink | stations | pool | port | events
  | grantBar | freeCount
deriving DecidableEq, Repr

/-- Where a crane stands. -/
def Crane.standing (c : Crane) : Nat × Option Nat × Option Span := (c.num, c.bay, c.span)

/-- A part is the same in two states. -/
def Part.same (p : Part) (q t : Quay) : Prop :=
  match p with
  | .pins => t.pins = q.pins
  | .profile => t.profile = q.profile
  | .stage => t.stage = q.stage
  | .loader => t.loader = q.loader
  | .clock => t.clock = q.clock
  | .bays => t.bays = q.bays
  | .orders => t.orders = q.orders
  | .assembly => t.assembly = q.assembly
  | .freeList => t.freeList = q.freeList
  | .moves => t.moves = q.moves
  | .cranes => t.cranes = q.cranes
  | .standing => t.cranes.map Crane.standing = q.cranes.map Crane.standing
  | .grantCounter => t.grantCounter = q.grantCounter
  | .lanes => t.lanes = q.lanes
  | .gangs => t.gangs = q.gangs
  | .dispatch => t.dispatch = q.dispatch
  | .stop => t.stop = q.stop
  | .craneLink => t.craneLink = q.craneLink
  | .laneLink => t.laneLink = q.laneLink
  | .stations => t.craneLink.stations = q.craneLink.stations ∧ t.laneLink.stations = q.laneLink.stations
  | .pool => t.pool = q.pool
  | .port => t.port = q.port
  | .events => t.events = q.events ∧ t.overflow = q.overflow
  | .grantBar => t.grantBar = q.grantBar
  | .freeCount => t.freeCount = q.freeCount

/-- Every part outside a list is the same. -/
def SameBut (l : List Part) (q t : Quay) : Prop := ∀ p, p ∉ l → p.same q t

/-- The parts a judgement may change: a grant (R76). -/
def grantParts : List Part := [.grantCounter, .moves, .cranes, .pool]

/-- The parts staging, binding and truck work may change (R69, R109, R112). -/
def workParts : List Part := grantParts ++ [.lanes, .events]

/-- The parts a withdrawal, or the choice of an order, may change (R35, R62, R77). -/
def orderParts : List Part := workParts ++ [.orders]

/-- The parts the end of a move may change (R14, R36, R83). -/
def endParts : List Part := orderParts ++ [.bays, .gangs, .dispatch, .freeList]

end Sys2Proof.Machine

namespace Sys2Proof

open Sys2Proof.Machine

/-- The group of a command. -/
def Instr.family : Instr → Family
  | .reset | .profileRecord _ | .profileRead _ | .profileWrite _ | .attach _ | .planReset _ | .tableRead _ | .reply _
  | .events _ | .status _ | .portFormat _ _ _ _ | .guardEnd | .unknownRequest _ | .quayClockTick => .port
  | .orderOpen _ | .orderEntries _ | .orderClose _ | .orderCancel _ | .moveDefer _ | .moveReinstate _
  | .moveClearDone _ | .moveClearRetry _ | .moveClearCancel _ => .orders
  | .berthLoad _ | .craneEnable _ | .craneClear _ | .gantryReq _ | .arrived _ | .spreaderSet _ | .liftStart _
  | .liftDone _ | .liftFail _ | .spot _ | .gantryTimerExpiry _ | .acceptanceTimerExpiry _ | .liftTimerExpiry _
  | .truckWaitTimerExpiry _ => .cranes
  | .laneOpen _ | .laneClose _ | .laneClear _ | .laneAssign _ | .truckEnter _ | .truckSet _ | .truckExit _
  | .obsActivation _ | .obsInactive _ | .pulseTimerExpiry _ | .lockoutTimerExpiry _ | .windowTimerExpiry _
  | .gangClear _ | .lashStart _ | .lashDone _ | .lashDecline _ | .lashTimerExpiry _ => .lanesAndGangs
  | .quayStop _ | .quayResume _ | .linkHold _ | .malformedFrame _ _ | .join _ _ | .leave _ _ | .stop _ _ | .qstopFall
  | .qstopRise | .attempt _ | .delivered _ | .failedAttempt _ | .quietCountComplete _ | .quietInterval _ => .linksAndStop

/-- The parts of the state that a well-formed command may change (DELIVERED: on a link whose score agrees with its
state, R144). `standing` is named beside `cranes` where cranes may
come to stand elsewhere, `stations` beside a link where its station table may change. -/
def Instr.touches : Instr → List Part
  | .reset =>
    [.profile, .stage, .loader, .clock, .bays, .orders, .assembly, .freeList, .moves, .cranes, .standing,
     .grantCounter, .lanes, .gangs, .dispatch, .stop, .craneLink, .laneLink, .stations, .pool, .port, .events,
     .grantBar]
  | .profileRecord _ =>
    [.profile, .stage, .loader, .clock, .bays, .orders, .assembly, .freeList, .cranes, .standing, .lanes,
     .gangs, .dispatch, .stop, .craneLink, .laneLink, .stations, .moves, .grantCounter, .pool, .events]
  | .profileRead _ => [.port]
  | .profileWrite _ => [.port, .profile]
  | .attach _ =>
    [.port, .stage, .clock, .bays, .orders, .assembly, .freeList, .cranes, .standing, .lanes, .gangs, .dispatch,
     .stop, .craneLink, .laneLink, .stations, .moves, .grantCounter, .pool, .events]
  | .planReset _ =>
    [.port, .bays, .orders, .assembly, .freeList, .moves, .cranes, .lanes, .gangs, .dispatch, .pool, .events]
  | .berthLoad _ => [.port, .bays, .dispatch] ++ grantParts
  | .orderOpen _ => [.port, .orders, .assembly, .freeList]
  | .orderEntries _ => [.port, .assembly]
  | .orderClose _ => [.port, .assembly] ++ endParts
  | .orderCancel _ => [.port, .assembly] ++ endParts
  | .moveDefer _ => [.port, .moves, .orders, .events]
  | .moveReinstate _ => [.port, .orders] ++ workParts
  | .moveClearDone _ | .moveClearRetry _ | .moveClearCancel _ => [.port] ++ endParts
  | .craneEnable _ => [.port] ++ grantParts
  | .craneClear _ => [.port, .standing] ++ grantParts
  | .gangClear _ => [.port, .bays, .gangs, .dispatch, .events] ++ grantParts
  | .laneOpen _ | .laneClose _ | .laneClear _ | .laneAssign _ => [.port] ++ workParts
  | .quayStop _ => [.port, .stop] ++ orderParts
  | .quayResume _ => [.port, .stop, .events] ++ grantParts
  | .linkHold _ => [.port, .craneLink, .laneLink, .events] ++ grantParts
  | .tableRead _ => [.port]
  | .reply _ => [.port, .events, .freeCount]
  | .events _ => [.port, .events]
  | .status _ => [.port, .events]
  | .portFormat _ _ _ _ => [.port, .events, .freeCount]
  | .guardEnd => [.port]
  | .malformedFrame _ _ => [.craneLink, .laneLink, .stations, .gangs, .dispatch, .freeCount] ++ orderParts
  | .join _ _ => [.craneLink, .laneLink, .stations, .standing, .gangs, .dispatch, .grantBar] ++ orderParts
  | .leave _ _ => [.craneLink, .laneLink, .stations, .gangs, .dispatch] ++ orderParts
  | .stop _ _ => [.craneLink, .laneLink, .stop] ++ orderParts
  | .qstopFall => [.pins, .stop] ++ orderParts
  | .gantryReq _ => [.craneLink, .cranes, .standing, .pool, .events]
  | .arrived _ => [.craneLink, .standing] ++ orderParts
  | .spreaderSet _ => [.craneLink, .events] ++ grantParts
  | .liftStart _ => [.craneLink, .moves, .cranes, .pool, .events]
  | .liftDone _ | .liftFail _ => [.craneLink] ++ endParts
  | .spot _ => [.craneLink, .pool, .events]
  | .lashStart _ | .lashDone _ => [.craneLink, .bays, .gangs, .dispatch, .events] ++ grantParts
  | .lashDecline _ => [.craneLink, .gangs, .dispatch, .pool, .events]
  | .truckEnter _ | .truckSet _ => [.laneLink] ++ workParts
  | .truckExit _ => [.laneLink] ++ orderParts
  | .obsActivation _ | .obsInactive _ => [.pins, .lanes]
  | .pulseTimerExpiry _ => orderParts
  | .lockoutTimerExpiry _ | .windowTimerExpiry _ => workParts
  | .gantryTimerExpiry _ | .acceptanceTimerExpiry _ | .liftTimerExpiry _ => orderParts
  | .truckWaitTimerExpiry _ => [.cranes, .pool, .events]
  | .lashTimerExpiry _ => [.gangs, .dispatch, .pool, .events]
  | .attempt _ => [.craneLink, .laneLink, .pool]
  | .delivered _ => [.craneLink, .laneLink, .gangs, .dispatch, .freeCount] ++ grantParts
  | .failedAttempt _ => [.craneLink, .laneLink, .stations, .gangs, .dispatch, .freeCount] ++ orderParts
  | .quietCountComplete _ | .quietInterval _ => [.craneLink, .laneLink, .events] ++ grantParts
  | .qstopRise => [.pins]
  | .quayClockTick => [.clock, .cranes, .lanes, .gangs]
  | .unknownRequest _ => [.port]

end Sys2Proof

namespace Sys2Proof.Machine.Quay

/-! ## The laws of the spec -/

/-- The pool law of R148. -/
def PoolLaw (q : Quay) : Prop := q.pool.length ≤ Config.slots ∧ q.routineAll ≤ Config.routineLimit

/-- The Event Queue holds at most 32 records (R160), each of a level from 1 to 3 (R159). -/
def EventLaw (q : Quay) : Prop :=
  q.events.length ≤ Config.eventRecords ∧ ∀ e ∈ q.events, 1 ≤ e.level ∧ e.level ≤ 3

/-- Spans are in order, the separation law of R45, and what keeps it: no crane stands in CONFIG, where SEPARATION may
be written (R43, R162). -/
def SpanLaw (q : Quay) : Prop :=
  (q.loader.running = true → q.stage = .config) ∧ (q.stage = .config → q.cranes = []) ∧
    (∀ c ∈ q.cranes, ∀ s, c.span = some s → s.low ≤ s.high) ∧
    (∀ i ∈ q.cranes, ∀ j ∈ q.cranes, ∀ a b, i.num < j.num → i.span = some a → j.span = some b →
      a.high + q.item Item.separation ≤ b.low)

/-- The record numbers free, reserved and live, none twice (R21, R22). -/
def recordNumbers (q : Quay) : List Nat :=
  q.freeList ++ (q.assembly.map (·.reserved)).getD [] ++ q.moves.map (·.num)

/-- The law of R123, with what names its records: no record number twice, no gang number twice. -/
def GangLaw (q : Quay) : Prop :=
  q.recordNumbers.Nodup ∧ (q.gangs.map (·.num)).Nodup ∧
    (∀ g ∈ q.gangs, g.state = .working → ∀ m ∈ q.moves, m.inFlight = true → g.bay ≠ some m.bay)

/-- The hold stack law of R60: at most three entries, and room for a pending preemption (R61); no crane twice. -/
def StackLaw (q : Quay) : Prop :=
  (q.cranes.map (·.num)).Nodup ∧ ∀ c ∈ q.cranes, c.stack.length ≤ Config.stackLimit ∧ (c.preempt.isSome = true → c.stack.length < Config.stackLimit)

/-- The items of the table are held, each with a value within its range (R162). -/
def ProfileLaw (q : Quay) : Prop :=
  q.profile.map (·.1) = itemRows.map (·.no) ∧ ∀ x ∈ q.profile, ∀ r, itemRow x.1 = some r → r.admits x.2 = true

/-- A link's state and fault score agree with the thresholds of R144, and SILENT is never left standing (R145). -/
def scoreFits (k : LinkCtl) : Prop :=
  match k.state with
  | .active => k.score < Config.warnScore
  | .warn => Config.calmScore < k.score ∧ k.score < Config.silentScore
  | .silent => False
  | .detached | .rejoin => True

/-- Both links' scores agree with their states (R144, R145). -/
def ScoreLaw (q : Quay) : Prop := scoreFits q.craneLink ∧ scoreFits q.laneLink

/-- Each station table holds the entries 0 to 31 (R141). -/
def StationLaw (q : Quay) : Prop := ∀ l : Link, (q.link l).stations.map (·.num) = List.range 32

/-- No JOIN is being carried out between commands (log entry 10). -/
def BarLaw (q : Quay) : Prop := q.grantBar = none

/-- No record number stands twice among the live moves (R21). -/
def MovesOnce (q : Quay) : Prop := (q.moves.map (·.num)).Nodup

/-- The truck law of R102: a tag stands at most once across the FIFOs, and no FIFO holds more than four trucks. -/
def TruckLaw (q : Quay) : Prop :=
  (q.lanes.map (·.phys)).Nodup ∧ (q.lanes.flatMap fun l => l.fifo.map (·.tag)).Nodup ∧
    ∀ l ∈ q.lanes, l.fifo.length ≤ Config.fifoLimit

/-- A bound truck is the head of its lane's FIFO (R102). -/
def HeadLaw (q : Quay) : Prop := ∀ l ∈ q.lanes, ∀ y ∈ l.fifo.tail, y.bound = none

/-- R134: while a stop is in force no crane's current move is PERMITTED. -/
def StopLaw (q : Quay) : Prop :=
  q.stopInForce = true → ∀ c m, q.currentMove? c = some m → m.state ≠ .permitted

/-- The count law of R2 and the hatch relation of R3; no bay number twice. -/
def CountLaw (q : Quay) : Prop :=
  (q.bays.map (·.num)).Nodup ∧
    ∀ b ∈ q.bays, b.deckCount ≤ b.deckCap ∧ b.holdCount ≤ b.holdCap ∧ (b.hatch = .off → b.deckCount = 0)

end Sys2Proof.Machine.Quay
end

