-- ==== Sys2Proof/Certificates/Slice0/Obligations.lean ====
section
/-!
DEFINITION. The statements for the provers. `s` is the machine before a command. `exec c s = .next t` says that the
command completes in `t`; `s.next q` is that outcome with the part `q` and the queue of `s`. `s.quay.refused record code why`
and `s.quay.replied record code why results` are the part with nothing changed but the reply and READY's rises. The other predicates are those
of Safety.lean.
-/

open Sys2Proof Sys2Proof.Machine

/-! ## The machine -/

/-- A step carries out the command at the front on the rest of the queue; with an empty queue the part idles (the
idling is the model's own, log entry 2). -/
def Obligations.StepTakesFront : Prop :=
  (∀ (s : State) (c : Instr) (rest : List Instr),
    s.pending = c :: rest → step s = exec c { s with pending := rest }) ∧
  ∀ s : State, s.pending = [] → step s = .next s

/-- Every command goes on, for every part and every queue, and neither reads nor changes the queue. -/
def Obligations.ExecGoesOn : Prop :=
  ∀ (c : Instr) (q : Quay), ∃ t : Quay, ∀ p : List Instr, exec c ⟨q, p⟩ = .next ⟨t, p⟩

/-- What every block holds after power-on or pin reset, and RESET brings the part there (the pins keep their levels:
log entry 3; the counter of free values is the model's own: log entry 6). -/
def Obligations.ResetRestores : Prop :=
  (∀ s : State, exec .reset s =
    s.next ({ Quay.reset with pins := s.quay.pins, freeCount := s.quay.freeCount })) ∧
  State.reset = ⟨Quay.reset, []⟩ ∧
  Quay.reset.stage = .config ∧ Quay.reset.loader = ⟨true, 1, 0, 0⟩ ∧ Quay.reset.clock = 0 ∧
  Quay.reset.profile = itemRows.map (fun r => (r.no, BitVec.ofNat 16 r.deflt)) ∧
  Quay.reset.bays = [] ∧ Quay.reset.orders = [] ∧ Quay.reset.assembly = none ∧
  Quay.reset.freeList = List.range 384 ∧ Quay.reset.moves = [] ∧ Quay.reset.cranes = [] ∧
  Quay.reset.grantCounter = 0 ∧ Quay.reset.lanes = [] ∧ Quay.reset.gangs = [] ∧ Quay.reset.dispatch = [] ∧
  Quay.reset.stop = ⟨[], none, none⟩ ∧ Quay.reset.stopInForce = false ∧
  (∀ l : Link, (Quay.reset.link l).state = .detached ∧ (Quay.reset.link l).score = 0 ∧
    (Quay.reset.link l).quiet = 0 ∧ (Quay.reset.link l).hold = false ∧
    (Quay.reset.link l).stations.map (·.num) = List.range 32 ∧
    ∀ x ∈ (Quay.reset.link l).stations, x.role = none ∧ x.state = .offline) ∧
  Quay.reset.pool = [] ∧ Quay.reset.freeSlots = 40 ∧
  Quay.reset.port.inHand = false ∧ Quay.reset.port.reply = none ∧ Quay.reset.port.formatError = false ∧
  Quay.reset.port.guard = false ∧ Quay.reset.events = [] ∧ Quay.reset.overflow = false ∧
  Quay.reset.attn = false ∧ Quay.reset.alert = false ∧ Quay.reset.stageBits = 0

/-! ## The port's judgement of requests (R154, R157, R169) -/

/-- Every request: not taken while one is in hand; BUSY while the loader runs; STAGE in CONFIG where R157 does not
allow it; BAD_REQUEST where its record is shorter than its operand length states, or too long for the port. Nothing
but the port changes. (A record too short to hold an operand length counts as one shorter than it states by log entry
24, and that a taken request ends the guard is log entry 20: both are the model's inference.) -/
def Obligations.PortJudgesRequests : Prop :=
  ∀ (c : Instr) (s : State) (code : Nat) (record : List Byte), requestRow c = some (code, record) →
    (s.quay.port.inHand = true → exec c s = s.next (s.quay.updPort fun x => { x with ready := 1 })) ∧
    (s.quay.port.inHand = false →
      (s.quay.loader.running = true → exec c s = s.next (s.quay.refused record code .busy)) ∧
      (s.quay.loader.running = false →
        (s.quay.stage = .config → allowedInConfig code = false →
          exec c s = s.next (s.quay.refused record code .stage)) ∧
        (s.quay.stage = .run ∨ allowedInConfig code = true →
          (447 < record.length ∨ record.length < 2 ∨
              (∃ h l body, record = h :: l :: body ∧ body.length < (word16 h l).toNat)) →
            exec c s = s.next (s.quay.refused record code .badRequest))))

/-- Operands shorter than a request needs are refused with BAD_VALUE, and ORDER ENTRIES' operands that are not exactly
3 plus 11 times the entry count (R169). `need` is the least length of each request's operands (12.3). -/
def Obligations.ShortOperandsRefused : Prop :=
  ∀ (s : State) (record bytes : List Byte), s.quay.takes record bytes →
    (∀ c code need, (c, code, need) ∈
        [(Instr.profileRead record, Code.profileRead, 2), (.profileWrite record, Code.profileWrite, 4),
         (.berthLoad record, Code.berthLoad, 7), (.orderOpen record, Code.orderOpen, 16),
         (.orderEntries record, Code.orderEntries, 3), (.orderClose record, Code.orderClose, 2),
         (.orderCancel record, Code.orderCancel, 2), (.moveDefer record, Code.moveDefer, 2),
         (.moveReinstate record, Code.moveReinstate, 2), (.moveClearDone record, Code.moveClear, 3),
         (.moveClearRetry record, Code.moveClear, 3), (.moveClearCancel record, Code.moveClear, 3),
         (.craneEnable record, Code.craneEnable, 2), (.craneClear record, Code.craneClear, 2),
         (.gangClear record, Code.gangClear, 1), (.laneOpen record, Code.laneOpen, 1),
         (.laneClose record, Code.laneClose, 1), (.laneClear record, Code.laneClear, 1),
         (.laneAssign record, Code.laneAssign, 2), (.linkHold record, Code.linkHold, 2),
         (.tableRead record, Code.tableRead, 4)] →
      bytes.length < need → exec c s = s.next (s.quay.refused record code .badValue)) ∧
    (∀ a b n rest, bytes = a :: b :: n :: rest → rest.length ≠ 11 * n.toNat →
      exec (.orderEntries record) s = s.next (s.quay.refused record Code.orderEntries .badValue))

/-- UNKNOWN_REQUEST is answered with BAD_REQUEST in every stage and while the loader runs (R157), the reply carrying the
code as written (00h where none was written is the model's choice: log entry 41), and is passed over while a request
is in hand (R154); TABLE READ refuses an unknown table and else holds its reply at once (R158). READY's rises are those
of R152. -/
def Obligations.UnknownAndTableRead : Prop :=
  (∀ (s : State) (record : List Byte), (Instr.unknownRequest record).wellFormed = true →
    (s.quay.port.inHand = true →
      exec (.unknownRequest record) s = s.next (s.quay.updPort fun x => { x with ready := 1 })) ∧
    (s.quay.port.inHand = false → exec (.unknownRequest record) s = s.next (s.quay.updPort fun x =>
      { x with
        inHand := false, guard := false, ready := record.length + 2
        reply := some (.plain ((record.head?.map (·.toNat)).getD 0) .badRequest []) }))) ∧
  ∀ (s : State) (record bytes : List Byte) (k first count : Nat), s.quay.takesAnyStage record bytes →
    opsTableRead bytes = some (k, first, count) →
    (6 < k → exec (.tableRead record) s = s.next (s.quay.refused record Code.tableRead .badValue)) ∧
    ∀ tb, k < 7 → Table.ofCode k = some tb → exec (.tableRead record) s =
      s.next (s.quay.updPort fun x => { x with inHand := false, reply := some (.table tb first count), guard := false, ready := record.length + 3 })

/-! ## Profile and start-up -/

/-- PROFILE READ and PROFILE WRITE (R163): the number, value, default and stage rule; ITEM, RANGE and STAGE in that
order; a write changes that item alone and posts no event. (The stage rule's byte, 0 CONFIG and 1 always, is the
model's: log entry 22.) -/
def Obligations.ProfileItems : Prop :=
  ∀ (s : State) (record bytes : List Byte), s.quay.takesAnyStage record bytes →
    (∀ n, ops16 bytes = some n →
      (itemRow n = none → exec (.profileRead record) s =
        s.next (s.quay.refused record Code.profileRead .item)) ∧
      ∀ r, itemRow n = some r → exec (.profileRead record) s =
        s.next (s.quay.replied record Code.profileRead .ok
          (be16n n ++ be16 (s.quay.itemWord n) ++ be16n r.deflt ++ [byte (if r.config then 0 else 1)]))) ∧
    (∀ n v, ops16x2 bytes = some (n, v) →
      (itemRow n = none → exec (.profileWrite record) s =
        s.next (s.quay.refused record Code.profileWrite .item)) ∧
      ∀ r, itemRow n = some r →
        (v.toNat < r.low ∨ r.high < v.toNat → exec (.profileWrite record) s =
          s.next (s.quay.refused record Code.profileWrite .range)) ∧
        (r.low ≤ v.toNat ∧ v.toNat ≤ r.high →
          (r.config = true → s.quay.stage = .run → exec (.profileWrite record) s =
            s.next (s.quay.refused record Code.profileWrite .stage)) ∧
          (r.config = false ∨ s.quay.stage = .config → s.quay.ProfileLaw → ∃ t, exec (.profileWrite record) s = .next t ∧
            t.quay = (s.quay.setItem n v).replied record Code.profileWrite .ok [] ∧ t.quay.itemWord n = v ∧
            ∀ k, k ≠ n → t.quay.itemWord k = s.quay.itemWord k)))

/-- PROFILE_RECORD (R165, R166, R167). A stopped loader reads nothing. A good record of one value writes its item where
the value lies in the range, else posts PROFILE_ITEM; one of two values writes consecutive items; CHAIN gives the read
address; END stops the loader, and with AUTO_ATTACH 1 performs ATTACH, whose refusal posts PROFILE_FAILED; a bad
record, or the 2048th that is no END, fails the attempt: every item takes its default, and the first and second
failure start anew, the third stops the loader with PROFILE_FAILED. (Its number 0 where ATTACH is refused is the
model's choice: log entry 47.) -/
def Obligations.ProfileRecordCourse : Prop :=
  ∀ (s : State) (r : FlashRecord),
    (s.quay.loader.running = false → exec (.profileRecord r) s = .next s) ∧
    (s.quay.loader.running = true →
      (∀ row, s.quay.loader.count + 1 < Config.loaderRecords → Header.valueCount r.header = 1 →
        flashChecksumAgrees r = true → itemRow (Header.itemNo r.header) = some row →
        exec (.profileRecord r) s = s.next (let q := s.quay.updLoader fun x =>
            { x with addr := x.addr + BitVec.ofNat 24 (flashSize r), count := x.count + 1 }
          if row.low ≤ r.v1.toNat ∧ r.v1.toNat ≤ row.high then q.setItem (Header.itemNo r.header) r.v1
          else q.post (profileItemEvent (Header.itemNo r.header) .range))) ∧
      (flashGood r = true → Header.itemNo r.header = 4094 → Header.valueCount r.header = 2 →
        s.quay.loader.count + 1 < Config.loaderRecords →
        exec (.profileRecord r) s = s.next (s.quay.updLoader fun x =>
          { x with addr := (r.v1.extractLsb' 0 8) ++ r.v2, count := x.count + 1 })) ∧
      (flashGood r = true → Header.itemNo r.header = 4095 → s.quay.item Item.autoAttach ≠ 1 →
        ∃ t, exec (.profileRecord r) s = .next t ∧ t.quay.loader.running = false ∧ t.quay.stage = s.quay.stage ∧
          t.quay.profile = s.quay.profile ∧ t.quay.events = s.quay.events) ∧
      (∀ r1 r2, s.quay.loader.count + 1 < Config.loaderRecords → Header.valueCount r.header = 2 →
        flashChecksumAgrees r = true → itemRow (Header.itemNo r.header) = some r1 →
        itemRow (Header.itemNo r.header + 1) = some r2 → r1.low ≤ r.v1.toNat → r.v1.toNat ≤ r1.high →
        r2.low ≤ r.v2.toNat → r.v2.toNat ≤ r2.high → ∃ t, exec (.profileRecord r) s = .next t ∧
          t.quay.profile = ((s.quay.setItem (Header.itemNo r.header) r.v1).setItem (Header.itemNo r.header + 1) r.v2).profile ∧
          t.quay.events = s.quay.events) ∧
      (flashGood r = true → Header.itemNo r.header = 4095 → s.quay.item Item.autoAttach = 1 → s.quay.stage = .config →
        ∃ t, exec (.profileRecord r) s = .next t ∧ t.quay.loader.running = false ∧
          (s.quay.mapConflict = true →
            t.quay.stage = .config ∧ t.quay.events = (s.quay.post (profileFailedEvent 1)).events) ∧
          (s.quay.mapConflict = false → s.quay.craneMisfit = true →
            t.quay.stage = .config ∧ t.quay.events = (s.quay.post (profileFailedEvent 2)).events) ∧
          (s.quay.mapConflict = false → s.quay.craneMisfit = false → t.quay.stage = .run ∧ t.quay.clock = 0)) ∧
      (flashGood r = true → Header.itemNo r.header ≠ 4095 →
        (Header.itemNo r.header = 4094 → Header.valueCount r.header = 2) →
        Config.loaderRecords ≤ s.quay.loader.count + 1 → s.quay.loader.attempt < 3 →
        ∃ t, exec (.profileRecord r) s = .next t ∧ t.quay.profile = defaultProfile ∧
          t.quay.loader = ⟨true, s.quay.loader.attempt + 1, 0, 0⟩) ∧
      (flashGood r = true → Header.itemNo r.header ≠ 4095 →
        (Header.itemNo r.header = 4094 → Header.valueCount r.header = 2) →
        Config.loaderRecords ≤ s.quay.loader.count + 1 → 3 ≤ s.quay.loader.attempt →
        ∃ t, exec (.profileRecord r) s = .next t ∧ t.quay.profile = defaultProfile ∧ t.quay.loader.running = false ∧
          t.quay.stage = s.quay.stage ∧ ∃ x : Quay, s.quay.events <+: x.events ∧ x.profile = defaultProfile ∧
            x.clock = s.quay.clock ∧ t.quay.events = (x.post (profileFailedEvent 0)).events) ∧
      (flashGood r = false ∨ (Header.itemNo r.header = 4094 ∧ Header.valueCount r.header ≠ 2) →
        (s.quay.loader.attempt < 3 → exec (.profileRecord r) s =
          s.next ((s.quay.setProfile defaultProfile).updLoader fun x =>
            { x with attempt := x.attempt + 1, addr := 0, count := 0 })) ∧
        (3 ≤ s.quay.loader.attempt → ∃ t, exec (.profileRecord r) s = .next t ∧ t.quay.loader.running = false ∧
          t.quay.profile = defaultProfile ∧ t.quay.stage = s.quay.stage ∧
          t.quay.events = ((s.quay.setProfile defaultProfile).post (profileFailedEvent 0)).events)))

/-- ATTACH (R167): STAGE in RUN, then MAP_CONFLICT, then CRANE_FIT; accepted, it makes the plan's records, starts the
clock from 0, passes to RUN, samples QSTOP and puts both links in REJOIN with score and quiet count 0; the station
tables take their roles (R141). The lane map (R94): an enabled lane's logical number is its place among the enabled
lanes in CONTIGUOUS, its remap item in REMAP, and 0 for a lane that is not enabled; it conflicts where two lanes carry
one number that is not 0. -/
def Obligations.AttachMakesPlan : Prop :=
  (∀ q : Quay,
    let mask := q.item Item.laneEnabled
    (∀ p, 1 ≤ p → p ≤ 8 → q.logicalOf p =
      if mask.testBit (p - 1) = false then 0
      else if q.item Item.laneMapMode = 0 then ((List.range' 1 p).filter fun k => mask.testBit (k - 1)).length
      else q.item (16 + p)) ∧
    (q.mapConflict = true ↔
      ∃ i j, 1 ≤ i ∧ i < j ∧ j ≤ 8 ∧ q.logicalOf i = q.logicalOf j ∧ q.logicalOf i ≠ 0)) ∧
  ∀ (s : State) (record bytes : List Byte), s.quay.takesAnyStage record bytes →
    (s.quay.stage = .run → exec (.attach record) s =
      s.next (s.quay.refused record Code.attach .stage)) ∧
    (s.quay.stage = .config →
      (s.quay.mapConflict = true → exec (.attach record) s =
        s.next (s.quay.refused record Code.attach .mapConflict)) ∧
      (s.quay.mapConflict = false →
        (s.quay.item Item.bayCount < (s.quay.item Item.craneCount - 1) * s.quay.item Item.separation + 1 →
          exec (.attach record) s = s.next (s.quay.refused record Code.attach .craneFit)) ∧
        ((s.quay.item Item.craneCount - 1) * s.quay.item Item.separation + 1 ≤ s.quay.item Item.bayCount →
          ∃ t, exec (.attach record) s = .next t ∧ t.quay.stage = .run ∧ t.quay.clock = 0 ∧
            t.quay.answers Code.attach .ok [] ∧
            t.quay.bays = (List.range' 1 (s.quay.item Item.bayCount)).map (fun b =>
              ⟨b, 0, 0, s.quay.item Item.deckCapDefault, s.quay.item Item.holdCapDefault, .on, .lashed⟩) ∧
            t.quay.orders = [] ∧ t.quay.assembly = none ∧ t.quay.freeList = List.range 384 ∧ t.quay.moves = [] ∧
            t.quay.cranes.map (·.num) = List.range' 1 (s.quay.item Item.craneCount) ∧
            (∀ c ∈ t.quay.cranes, c = newCrane c.num) ∧
            t.quay.gangs = (List.range' 1 (s.quay.item Item.gangCount)).map newGang ∧ t.quay.dispatch = [] ∧
            t.quay.lanes.map (fun l => (l.phys, l.logical)) =
              [1, 2, 3, 4, 5, 6, 7, 8].map (fun p => (p, s.quay.logicalOf p)) ∧
            (∀ l ∈ t.quay.lanes, l.state = (if l.logical = 0 then .disabled else .closed) ∧ l.crane = none ∧ l.fifo = [] ∧
              l.qualifier = .idle ∧ l.pulse = .stopped ∧ l.lockout = .stopped ∧ l.window = .stopped) ∧
            (∀ l : Link, (t.quay.link l).state = .rejoin ∧ (t.quay.link l).score = 0 ∧ (t.quay.link l).quiet = 0 ∧
              (t.quay.link l).hold = (s.quay.link l).hold) ∧
            t.quay.craneLink.stations = (List.range 32).map (fun n =>
              ⟨n, if 1 ≤ n ∧ n ≤ s.quay.item Item.craneCount then some .crane
                else if 17 ≤ n ∧ n ≤ 16 + s.quay.item Item.gangCount then some .gang else none, .offline⟩) ∧
            t.quay.laneLink.stations = (List.range 32).map (fun n =>
              ⟨n, if 1 ≤ n ∧ n ≤ 8 then some .gate else none, .offline⟩) ∧
            t.quay.grantCounter = s.quay.grantCounter ∧
            (s.quay.pins.qstopHigh = true → t.quay.stop = s.quay.stop) ∧
            (s.quay.pins.qstopHigh = false → s.quay.stop.sources = [] →
              t.quay.stop = ⟨[.pin], some .pin, some 0⟩ ∧ ∀ c ∈ t.quay.cranes, c.enable = false))))

/-- PLAN RESET (R10, R20, R22, R43, R93, R96, R119): IN_FLIGHT while a move is LIFTING or FAULTED or a gang is WORKING;
else orders, moves and lists are emptied, the bays return to their values at ATTACH, no truck stays bound, a WORKING
crane is IDLE and every other keeps its state. Each PERMITTED current move is withdrawn with cause RESET before (steps 1
to 5 of R77: PERMIT WITHDRAW, PERMIT_LAPSED), and each ORDERED gang is sent LASH CANCEL and IDLE with its last bay kept.
(That the withdrawals come first, by rising crane, and then the gangs, by rising number, is the model's choice: log
entry 34.) -/
def Obligations.PlanResetDrops : Prop :=
  ∀ (s : State) (record bytes : List Byte), s.quay.takes record bytes →
    ((∃ m ∈ s.quay.moves, m.state = .lifting ∨ m.state = .faulted) ∨ (∃ g ∈ s.quay.gangs, g.state = .working) →
      exec (.planReset record) s = s.next (s.quay.refused record Code.planReset .inFlight)) ∧
    ((∀ m ∈ s.quay.moves, m.state ≠ .lifting ∧ m.state ≠ .faulted) → (∀ g ∈ s.quay.gangs, g.state ≠ .working) →
      ∃ t, exec (.planReset record) s = .next t ∧ t.quay.answers Code.planReset .ok [] ∧
        t.quay.bays = s.quay.bays.map (fun b =>
          ⟨b.num, 0, 0, s.quay.item Item.deckCapDefault, s.quay.item Item.holdCapDefault, .on, .lashed⟩) ∧
        t.quay.orders = [] ∧ t.quay.assembly = none ∧ t.quay.moves = [] ∧ t.quay.freeList = List.range 384 ∧
        t.quay.dispatch = [] ∧ t.quay.lanes.map Lane.tags = s.quay.lanes.map Lane.tags ∧
        (∀ l ∈ t.quay.lanes, ∀ x ∈ l.fifo, x.bound = none ∧ x.misorder = false) ∧
        t.quay.cranes = s.quay.cranes.map (fun c => { c with
          state := if c.state = .working then .idle else c.state
          active := none, waiting := [], current := none, preempt := none, stack := []
          accept := .stopped, truckWait := .stopped, late := 0 }) ∧
        ((s.quay.gangs.map (·.num)).Nodup →
          let lapsing := s.quay.craneNums.foldl (fun q c =>
            match q.currentMove? c with
            | some m => if m.state = .permitted then q.withdrawn c m .reset else q
            | none => q) s.quay
          let recalled := s.quay.gangs.foldl (fun q g =>
            match g.state, g.task, g.bay with
            | .ordered, some task, some b => q.sendRoutine .crane (16 + g.num) (.lashCancel task b)
            | _, _, _ => q) lapsing
          t.quay.pool = recalled.pool ∧ t.quay.events = recalled.events ∧
          t.quay.gangs = s.quay.gangs.map fun g => if g.state = .ordered then
            { g with state := .idle, task := none, bay := none, timer := .stopped } else g) ∧
        t.quay.grantCounter = s.quay.grantCounter ∧ t.quay.stop = s.quay.stop ∧ t.quay.clock = s.quay.clock)

/-! ## Berth Table and orders -/

/-- The judgement of R11: a move passes exactly when every condition of its row holds; and the effect of R12 on the
record of its bay. -/
def Obligations.BayJudgementAndEffect : Prop :=
  ∀ (b : Bay) (m : Move),
    (m.kind = .discharge → m.sect = .deck →
      (b.allows m = true ↔ b.hatch = .on ∧ b.lash = .opened ∧ m.cls.boxes ≤ b.deckCount)) ∧
    (m.kind = .load → m.sect = .deck →
      (b.allows m = true ↔ b.hatch = .on ∧ b.lash = .opened ∧ b.deckCount + m.cls.boxes ≤ b.deckCap)) ∧
    (m.kind = .discharge → m.sect = .hold → (b.allows m = true ↔ b.hatch = .off ∧ m.cls.boxes ≤ b.holdCount)) ∧
    (m.kind = .load → m.sect = .hold →
      (b.allows m = true ↔ b.hatch = .off ∧ b.holdCount + m.cls.boxes ≤ b.holdCap)) ∧
    (m.kind = .hatchOff → (b.allows m = true ↔ b.hatch = .on ∧ b.lash = .opened ∧ b.deckCount = 0)) ∧
    (m.kind = .hatchOn → (b.allows m = true ↔ b.hatch = .off)) ∧
    (m.kind = .discharge → m.sect = .deck → b.apply m = { b with deckCount := b.deckCount - m.cls.boxes }) ∧
    (m.kind = .discharge → m.sect = .hold → b.apply m = { b with holdCount := b.holdCount - m.cls.boxes }) ∧
    (m.kind = .load → m.sect = .deck → b.apply m = { b with deckCount := b.deckCount + m.cls.boxes }) ∧
    (m.kind = .load → m.sect = .hold → b.apply m = { b with holdCount := b.holdCount + m.cls.boxes }) ∧
    (m.kind = .hatchOff → b.apply m = { b with hatch := .off }) ∧
    (m.kind = .hatchOn → b.apply m = { b with hatch := .on })

/-- BERTH LOAD (R15, R16): BAD_BAY, BAD_VALUE, BAY_BUSY in that order; accepted, it writes the seven stored fields of
that bay alone and takes the bay out of the dispatch list. -/
def Obligations.BerthLoadWritesBay : Prop :=
  ∀ (s : State) (record bytes : List Byte) (o : BerthLoadOps), s.quay.takes record bytes →
    opsBerthLoad bytes = some o →
    (s.quay.bay? o.bay = none → exec (.berthLoad record) s =
      s.next (s.quay.refused record Code.berthLoad .badBay)) ∧
    ∀ b, s.quay.bay? o.bay = some b →
      (120 < o.deckCap ∨ 200 < o.holdCap ∨ o.deckCap < o.deckCount ∨ o.holdCap < o.holdCount ∨ 1 < o.hatch ∨
          (o.lash ≠ 0 ∧ o.lash ≠ 3) ∨ (o.hatch = 1 ∧ 0 < o.deckCount) →
        exec (.berthLoad record) s = s.next (s.quay.refused record Code.berthLoad .badValue)) ∧
      (o.deckCap ≤ 120 → o.holdCap ≤ 200 → o.deckCount ≤ o.deckCap → o.holdCount ≤ o.holdCap → o.hatch ≤ 1 →
        (o.lash = 0 ∨ o.lash = 3) → (o.hatch = 1 → o.deckCount = 0) →
        ((∃ c, s.quay.claim? o.bay = some c ∧ c.current.isSome = true) ∨
            (∃ m ∈ s.quay.moves, m.bay = o.bay) ∨
            (∃ g ∈ s.quay.gangs, (g.state = .ordered ∨ g.state = .working) ∧ g.bay = some o.bay) →
          exec (.berthLoad record) s = s.next (s.quay.refused record Code.berthLoad .bayBusy)) ∧
        ((∀ c, s.quay.claim? o.bay = some c → c.current = none) → (∀ m ∈ s.quay.moves, m.bay ≠ o.bay) →
            (∀ g ∈ s.quay.gangs, (g.state = .ordered ∨ g.state = .working) → g.bay ≠ some o.bay) →
          ∃ t, exec (.berthLoad record) s = .next t ∧ t.quay.answers Code.berthLoad .ok [] ∧
            t.quay.bays = s.quay.bays.map (fun x => if x.num = o.bay then
              ⟨o.bay, o.deckCount, o.holdCount, o.deckCap, o.holdCap, if o.hatch = 0 then .on else .off,
                if o.lash = 0 then .lashed else .opened⟩ else x) ∧
            t.quay.dispatch = s.quay.dispatch.filter fun x => x ≠ o.bay))

/-- ORDER OPEN (R24, R25): the checks stand in the order of R24, each reason where every earlier condition fails, for
an order of any number of groups, for a hatch kind and for a kind that is none; accepted, the lowest empty slot takes
the header, ASSEMBLING, the head of the free list is reserved, and the assembly context begins empty. Refused, it
changes nothing. -/
def Obligations.OrderOpenReserves : Prop :=
  (∀ (s : State) (record bytes : List Byte) (h : OrderHeader), s.quay.takes record bytes →
    opsOrderOpen bytes = some h →
    (∀ r, s.quay.orderOpenBar h = .error r → exec (.orderOpen record) s =
      s.next (s.quay.refused record Code.orderOpen r)) ∧
    ∀ k, s.quay.orderOpenBar h = .ok k → ∃ t slot, exec (.orderOpen record) s = .next t ∧ slot < 24 ∧
      s.quay.order? slot = none ∧ (∀ n, n < slot → (s.quay.order? n).isSome = true) ∧
      t.quay.answers Code.orderOpen .ok [] ∧ t.quay.order? slot = some (h.record k slot) ∧
      (h.record k slot).state = .assembling ∧ (h.record k slot).tag = h.tag ∧ (h.record k slot).total = h.total k ∧
      t.quay.assembly = some ⟨slot, s.quay.freeList.take (h.total k), [], false, none, none⟩ ∧
      t.quay.freeList = s.quay.freeList.drop (h.total k)) ∧
  (∀ (q : Quay) (h : OrderHeader) (k : OrderKind) (used : List (Nat × Nat)) (total : Nat),
    OrderKind.ofCode h.kind = some k → k.isHatch = false → used = h.groups.take h.groupCount →
    total = (used.map (·.2)).sum → h.total k = total ∧ q.orderOpenBar h =
      (if q.assembly.isSome then .error .assemblyBusy
       else if h.tag = 0 ∨ 1 < h.sect ∨ h.rowCount < 1 ∨ 24 < h.rowCount ∨ h.rowCount ≤ h.startRow ∨
         3 < h.groupCount then .error .badValue
       else if (q.orderByTag? h.tag).isSome then .error .tagInUse
       else if (q.crane? h.crane).isNone then .error .badCrane
       else if (q.bay? h.bay).isNone then .error .badBay
       else if h.groupCount = 0 ∨ used.any (fun g => decide (g.2 = 0)) = true then .error .groupEmpty
       else if used.any (fun g => decide (2 < g.1)) then .error .badClass
       else if used.any (fun g => decide (96 < g.2)) = true ∨ 128 < total then .error .tooLong
       else if (List.range 24).all (fun i => (q.order? i).isSome) = true then .error .orderTableFull
       else if (q.crane? h.crane).any (fun c => decide (8 ≤ c.waiting.length)) then .error .craneListFull
       else if q.freeList.length < total then .error .storeFull
       else .ok k)) ∧
  (∀ (q : Quay) (h : OrderHeader) (k : OrderKind), OrderKind.ofCode h.kind = some k → k.isHatch = true →
    h.total k = 1 ∧ q.orderOpenBar h =
      (if q.assembly.isSome then .error .assemblyBusy
       else if h.tag = 0 ∨ h.groupCount ≠ 0 then .error .badValue
       else if (q.orderByTag? h.tag).isSome then .error .tagInUse
       else if (q.crane? h.crane).isNone then .error .badCrane
       else if (q.bay? h.bay).isNone then .error .badBay
       else if (List.range 24).all (fun i => (q.order? i).isSome) = true then .error .orderTableFull
       else if (q.crane? h.crane).any (fun c => decide (8 ≤ c.waiting.length)) then .error .craneListFull
       else if q.freeList = [] then .error .storeFull
       else .ok k)) ∧
  ∀ (q : Quay) (h : OrderHeader), (OrderKind.ofCode h.kind = none ↔ 3 < h.kind) ∧
    (3 < h.kind → q.orderOpenBar h = .error (if q.assembly.isSome then .assemblyBusy else .badValue))

/-- ORDER ENTRIES (R26, R27): NO_ORDER where no order assembles under the tag; BAD_VALUE for an empty list or one
above 40; else each entry is taken up to the entry total, one beyond it sets the late-end mark, and the reply carries
how many the context now holds. An index has the class of its group; a partner box is kept in a TWIN20 entry alone;
the first index that fails the entry check, and the first that repeats an earlier cell, are kept. (That NO_ORDER comes
before BAD_VALUE where both apply is the model's choice: log entry 44.) -/
def Obligations.OrderEntriesTaken : Prop :=
  ∀ (s : State) (record bytes : List Byte) (tag : Word16) (n : Nat) (es : List Entry), s.quay.takes record bytes →
    opsOrderEntries bytes = some (tag, n, es) →
    (s.quay.assembling? tag = none → exec (.orderEntries record) s =
      s.next (s.quay.refused record Code.orderEntries .noOrder)) ∧
    ∀ a o, s.quay.assembling? tag = some (a, o) →
      (n = 0 ∨ 40 < n → exec (.orderEntries record) s =
        s.next (s.quay.refused record Code.orderEntries .badValue)) ∧
      (1 ≤ n → n ≤ 40 → a.entries.length ≤ o.entryTotal → ∃ t a', exec (.orderEntries record) s = .next t ∧
        t.quay.assembly = some a' ∧ a'.slot = a.slot ∧ a'.reserved = a.reserved ∧
        a'.entries.length = min o.entryTotal (a.entries.length + es.length) ∧
        (a'.lateEnd = true ↔ a.lateEnd = true ∨ o.entryTotal < a.entries.length + es.length) ∧
        t.quay.answers Code.orderEntries .ok [byte a'.entries.length] ∧
        ∀ classes : List LiftClass, classes = o.groups.flatMap (fun g => List.replicate g.count g.cls) →
          (∀ i, i < a.entries.length → a'.entries[i]? = a.entries[i]?) ∧
          (∀ i e, a'.entries[a.entries.length + i]? = some e → ∃ x, es[i]? = some x ∧
            e = if classes[a.entries.length + i]? = some .twin20 then x else { x with partner := none }) ∧
          (∀ fails repeats : Nat → Prop,
            (∀ i, fails i ↔ a.entries.length ≤ i ∧ ∃ e, a'.entries[i]? = some e ∧
              (o.rowCount.getD 0 ≤ e.row ∨ 15 < e.tier ∨ (o.kind = .load ∧ e.box = none) ∨
                (o.kind = .load ∧ classes[i]? = some .twin20 ∧ e.partner = none))) →
            (∀ i, repeats i ↔ a.entries.length ≤ i ∧ ∃ e x j, a'.entries[i]? = some e ∧ j < i ∧
              a'.entries[j]? = some x ∧ x.row = e.row ∧ x.tier = e.tier) →
            (∀ i, a'.firstFailed = some i ↔
              a.firstFailed = some i ∨ (a.firstFailed = none ∧ fails i ∧ ∀ j, j < i → ¬ fails j)) ∧
            ∀ i, a'.firstRepeat = some i ↔
              a.firstRepeat = some i ∨ (a.firstRepeat = none ∧ repeats i ∧ ∀ j, j < i → ¬ repeats j)))

/-- ORDER CLOSE (R28, R30, R31). Refused with LATE_END, EARLY_END, ENTRY_BAD or DUP_CELL in that order, the order leaves
the table, its records return to the tail of the free list, ORDER_REFUSED is posted, the reply carries reason and index.
Accepted, the context is dropped, the free list stays, the order has left ASSEMBLING with all its moves live, and the
reserved records are live moves beside those already live: `ms`, in issue order, one for each entry with its group and
class, by group, then row in the sweep from the start row, then tier, falling for a DISCHARGE and rising for a LOAD; for
a hatch kind the single hatch move (R29, R30). ORDER_ACCEPTED is posted and the unlash trigger raised (R31, R41). Where
no record number stands twice (GangsKept), each new move is live as created, but that the order, where it became ACTIVE,
may have one of them staged as its crane's current move; and the order is placed as R31, R61 and R35 say: with an active
order at the crane, NORMAL at the tail of the list, URGENT at its head, unless the preemption is taken, which makes it
pending while a move of the active order is PERMITTED, LIFTING or FAULTED and else pushes it (R63); with none, R35 then
takes a pending order, the top of the stack, or of an ONLINE crane the head of the list. An ONLINE crane that takes up
an order is sent WORK NOTICE for it, with the class of its first move (R35). Where the unlash trigger acts, the bay
joins the tail of the dispatch list and a dispatch is made (R120, R121). (That the index stands in ORDER_REFUSED's
detail, orderRefused, without a presence byte is the model's choice: log entry 42; that the dispatch comes before the
report of the bay's change, so that its frames claim their slots first, log entry 11.) -/
def Obligations.OrderCloseJudged : Prop :=
  (∀ (s : State) (record bytes : List Byte) (tag : Word16), s.quay.takes record bytes → opsTag bytes = some tag →
    (s.quay.assembling? tag = none → exec (.orderClose record) s =
      s.next (s.quay.refused record Code.orderClose .noOrder)) ∧
    ∀ a o, s.quay.assembling? tag = some (a, o) → ∀ r idx,
      (a.lateEnd = true ∧ r = .lateEnd ∧ idx = none) ∨
      (a.lateEnd = false ∧ a.entries.length < o.entryTotal ∧ r = .earlyEnd ∧ idx = none) ∨
      (a.lateEnd = false ∧ o.entryTotal ≤ a.entries.length ∧ a.firstFailed.isSome = true ∧ r = .entryBad ∧
        idx = a.firstFailed) ∨
      (a.lateEnd = false ∧ o.entryTotal ≤ a.entries.length ∧ a.firstFailed = none ∧ a.firstRepeat.isSome = true ∧
        r = .dupCell ∧ idx = a.firstRepeat) →
      exec (.orderClose record) s =
        s.next (((((s.quay.dropOrder a.slot).setFreeList (s.quay.freeList ++ a.reserved)).setAssembly none).post
          (orderRefused tag r idx)).replied record Code.orderClose r (idx.map byte).toList)) ∧
  ∀ (s : State) (record bytes : List Byte) (tag : Word16) (a : Assembly) (o : Order), s.quay.takes record bytes →
    opsTag bytes = some tag → s.quay.assembling? tag = some (a, o) → a.lateEnd = false →
    o.entryTotal ≤ a.entries.length → a.firstFailed = none → a.firstRepeat = none →
    ∃ t ms o', exec (.orderClose record) s = .next t ∧ t.quay.answers Code.orderClose .ok [] ∧ t.quay.assembly = none ∧
      t.quay.freeList = s.quay.freeList ∧ s.quay.reports t.quay
        { kind := .orderAccepted, subject := .order, number := tag.toNat } ∧
      (t.quay.order? o.slot = some o' ∧ (o'.state = .waiting ∨ o'.state = .active) ∧ o'.live = o.total) ∧
      (∀ b, s.quay.bay? o.bay = some b → (t.quay.bay? o.bay).map (·.lash) = some (
        if b.lash = .lashed ∧ (o.kind = .hatchOff ∨ (o.kind ≠ .hatchOn ∧ o.sect = .deck)) then .unlashDue else b.lash)) ∧
      (let due : Prop := (s.quay.bay? o.bay).any (fun b => b.lash = .lashed) = true ∧
          (o.kind = .hatchOff ∨ (o.kind ≠ .hatchOn ∧ o.sect = .deck))
       (due → t.quay.Dispatched s.quay.gangs ((s.quay.dispatch.filter fun x => x ≠ o.bay) ++ [o.bay]) t.quay.gangs
          t.quay.dispatch) ∧
       (¬ due → t.quay.gangs = s.quay.gangs ∧ t.quay.dispatch = s.quay.dispatch)) ∧
      (s.quay.recordNumbers.Nodup →
        (∀ cr x w wo m, s.quay.crane? o.crane = some cr → t.quay.crane? o.crane = some x → x.active = some w →
          cr.active ≠ some w → s.quay.order? w = some wo → (s.quay.station .crane o.crane).state = .online →
          (∀ c y, s.quay.currentMove? c = some y → y.order ≠ w) → Quay.leads (s.quay.moves ++ ms) w m →
          s.quay.sent t.quay .crane o.crane (.workNotice wo.tag wo.bay wo.sect m.cls)) ∧
        (∀ m ∈ ms, t.quay.move? m.num = some m ∨ (m.state = .queued ∧ o'.state = .active ∧
          ∃ x, t.quay.crane? o.crane = some x ∧ x.active = some o.slot ∧ x.current = some m.num)) ∧
        ∀ cr x, s.quay.crane? o.crane = some cr → t.quay.crane? o.crane = some x → cr.active ≠ some o.slot →
          let placed := if o.priority = .normal then cr.waiting ++ [o.slot] else o.slot :: cr.waiting
          (o'.state = .active ↔ x.active = some o.slot) ∧
          (o.priority = .urgent → 3 ≤ cr.stack.length → s.quay.reports t.quay
            { kind := .holdStackFull, subject := .crane, number := o.crane, detail := be16 tag }) ∧
          (∀ k old, cr.active = some k → s.quay.order? k = some old →
            let taken : Prop := o.priority = .urgent ∧ cr.stack.length < 3 ∧ old.state = .active ∧ cr.preempt = none
            let blocked : Prop := ∃ m ∈ t.quay.movesOf k, m.state = .permitted ∨ m.state = .lifting ∨ m.state = .faulted
            (¬ taken → x.waiting = placed ∧ x.active = some k ∧ x.preempt = cr.preempt ∧ x.stack = cr.stack) ∧
            (taken → blocked →
              x.waiting = cr.waiting ∧ x.active = some k ∧ x.preempt = some o.slot ∧ x.stack = cr.stack) ∧
            (taken → ¬ blocked →
              x.waiting = cr.waiting ∧ x.active = some o.slot ∧ x.preempt = none ∧
              x.stack = ⟨k, cr.bay, cr.spreader, if s.quay.stop.sources = [] then cr.enable else cr.savedEnable⟩ :: cr.stack ∧
              (t.quay.order? k).map (·.state) = some .stacked ∧ s.quay.reports t.quay
                { kind := .holdPush, subject := .crane, number := o.crane, detail := be16 old.tag ++ be16 tag })) ∧
          (cr.active = none →
            (∀ p, cr.preempt = some p →
              x.waiting = placed ∧ x.active = some p ∧ x.preempt = none ∧ x.stack = cr.stack) ∧
            (∀ e rest, cr.preempt = none → cr.stack = e :: rest →
              x.waiting = placed ∧ x.active = some e.order ∧ x.preempt = none ∧ x.stack = rest) ∧
            (cr.preempt = none → cr.stack = [] → x.preempt = none ∧ x.stack = [] ∧
              (s.quay.craneOnline o.crane = true → x.waiting = placed.tail ∧ x.active = placed.head?) ∧
              (s.quay.craneOnline o.crane = false → x.waiting = placed ∧ x.active = none)))) ∧
      (t.quay.moves.map Move.fixed).Perm ((s.quay.moves ++ ms).map Move.fixed) ∧
      (∀ m ∈ ms, m.order = o.slot ∧ m.crane = o.crane ∧ m.bay = o.bay ∧ m.kind = o.kind ∧ m.fails = 0 ∧
        m.truck = none ∧ m.stamp = none) ∧
      (∀ k, o.kind.isHatch = true → a.reserved = [k] → ∃ m, ms = [m] ∧ m.num = k ∧ m.pos = 0 ∧ m.group = 1 ∧
        m.sect = .deck ∧ m.cls = .cover ∧ m.row = none ∧ m.tier = none ∧ m.box = none ∧ m.partner = none ∧
        m.state = .queued) ∧
      ∀ n start, o.kind.isHatch = false → a.reserved.length = a.entries.length →
        a.entries.length = (o.groups.map (·.count)).sum → o.rowCount = some n → o.startRow = some start → start < n →
        (∀ e ∈ a.entries, e.row < n) →
        ms.map (·.num) = a.reserved ∧ ms.map (·.pos) = List.range ms.length ∧ (∀ m ∈ ms, m.sect = o.sect) ∧
        (ms.map fun m => (m.group, m.cls, m.row, m.tier, m.box, m.partner, m.state)).Perm
          ((((o.groups.zipIdx 1).flatMap fun g => List.replicate g.1.count (g.2, g.1.cls)).zip a.entries).map fun x =>
            (x.1.1, x.1.2, some x.2.row, some x.2.tier, x.2.box, x.2.partner,
              if x.2.heldBack then MoveState.deferred else .queued)) ∧
        ms.Pairwise fun x y =>
          x.group < y.group ∨ (x.group = y.group ∧
            ((x.row.getD 0 + n - start) % n < (y.row.getD 0 + n - start) % n ∨ (x.row = y.row ∧
              if o.kind = .load then x.tier.getD 0 ≤ y.tier.getD 0 else y.tier.getD 0 ≤ x.tier.getD 0)))

/-- ORDER CANCEL (R38, R39, R36): NO_ORDER, ORDER_STATE for CANCELLING; an ASSEMBLING order leaves with its records; a
WAITING or STACKED order leaves its crane's list, pending field or stack, has no move left and leaves the table with
ORDER_COMPLETE; of an ACTIVE order every move is cancelled that is neither LIFTING nor FAULTED, and it is CANCELLING
where one is left, else it leaves the table with ORDER_COMPLETE, and its crane takes up another by R35 (Quay.takesUp).
The crane's current move is cancelled first: a PERMITTED one is withdrawn with cause CANCEL (PERMIT WITHDRAW,
PERMIT_LAPSED), and a bound truck released after that, LADEN with what it carries or EMPTY (R39, R112). The premises of
the last are what holds of an ACTIVE order: its moves in STAGED, MATCHED and PERMITTED are its crane's current move, a
STAGED one has no truck, no other crane holds a move of it, and its live count is the number of its moves. (That
HOLD_POP shows the bay of an entry pushed without a bay as 0 is the model's inference: log entry 32.) -/
def Obligations.OrderCancelEnds : Prop :=
  ∀ (s : State) (record bytes : List Byte) (tag : Word16), s.quay.takes record bytes → opsTag bytes = some tag →
    (s.quay.orderByTag? tag = none → exec (.orderCancel record) s =
      s.next (s.quay.refused record Code.orderCancel .noOrder)) ∧
    ∀ o, s.quay.orderByTag? tag = some o →
      (o.state = .cancelling → exec (.orderCancel record) s =
        s.next (s.quay.refused record Code.orderCancel .orderState)) ∧
      (∀ a, o.state = .assembling → s.quay.assembly = some a → exec (.orderCancel record) s =
        s.next ((((s.quay.dropOrder a.slot).setFreeList (s.quay.freeList ++ a.reserved)).setAssembly none).replied record
            Code.orderCancel .ok [])) ∧
      (o.state = .waiting ∨ o.state = .stacked → ∃ t, exec (.orderCancel record) s = .next t ∧
        t.quay.answers Code.orderCancel .ok [] ∧ t.quay.movesOf o.slot = [] ∧
        (∀ c ∈ t.quay.cranes, c.num = o.crane → (o.state = .waiting → o.slot ∉ c.waiting ∧ c.preempt ≠ some o.slot) ∧
          (o.state = .stacked → ∀ e ∈ c.stack, e.order ≠ o.slot)) ∧
        (s.quay.order? o.slot = some o → o.live = (s.quay.movesOf o.slot).length → s.quay.movesOf o.slot ≠ [] →
          t.quay.order? o.slot = none ∧ s.quay.reports t.quay
            { kind := .orderComplete, subject := .order, number := tag.toNat, detail := [1, byte o.done] })) ∧
      (o.state = .active → ∃ t, exec (.orderCancel record) s = .next t ∧ t.quay.answers Code.orderCancel .ok [] ∧
        (∀ x ∈ t.quay.orders, x.slot = o.slot → x.state = .cancelling) ∧
        (∀ m, s.quay.currentMove? o.crane = some m → m.order = o.slot → m.state ≠ .lifting → m.state ≠ .faulted →
          let q := if m.state = .permitted then s.quay.withdrawn o.crane m .cancel else s.quay
          q.events <+: t.quay.events ∧ (m.truck = none → q.pool <+: t.quay.pool) ∧
          ∀ tr l y, m.truck = some tr → s.quay.laneOfTag? tr.tag = some l →
            (l.fifo.find? fun x => x.tag = tr.tag) = some y →
            (y.load = .laden → q.released t.quay tr l .laden y.box y.partner) ∧
            (y.load = .empty → q.released t.quay tr l .empty none none)) ∧
        (s.quay.MovesOnce → s.quay.order? o.slot = some o → o.live = (s.quay.movesOf o.slot).length →
          (∀ m ∈ s.quay.movesOf o.slot, m.state = .staged ∨ m.state = .matched ∨ m.state = .permitted →
            s.quay.currentMove? o.crane = some m ∧ (m.state = .staged → m.truck = none)) →
          (∀ c m, s.quay.currentMove? c = some m → m.order = o.slot → c = o.crane) →
          t.quay.movesOf o.slot = (s.quay.movesOf o.slot).filter (fun m => m.state = .lifting ∨ m.state = .faulted) ∧
          ((t.quay.movesOf o.slot ≠ [] → ∃ o', t.quay.order? o.slot = some o' ∧ o'.tag = tag ∧
              o'.state = .cancelling ∧ o'.live = (t.quay.movesOf o.slot).length ∧ o'.done = o.done) ∧
            (t.quay.movesOf o.slot = [] → s.quay.movesOf o.slot ≠ [] → t.quay.order? o.slot = none ∧
              (∀ cr, s.quay.crane? o.crane = some cr → cr.active = some o.slot →
                ∃ x, t.quay.crane? o.crane = some x ∧ s.quay.takesUp t.quay o.crane o.slot cr x) ∧
              s.quay.reports t.quay
                { kind := .orderComplete, subject := .order, number := tag.toNat, detail := [1, byte o.done] }))))

/-- MOVE DEFER and MOVE REINSTATE (R32, R33, R37): NO_MOVE, MOVE_STATE; a QUEUED move becomes DEFERRED, and where its
order is ACTIVE with all its live moves DEFERRED now and its stall mark clear, ORDER_STALLED is posted with their number
and the mark set; a DEFERRED one leaves DEFERRED, with all it carried, and clears its order's stall mark: it is QUEUED,
but that it may be staged at once where its order is ACTIVE and its crane has no current move. -/
def Obligations.MoveDeferReinstate : Prop :=
  ∀ (s : State) (record bytes : List Byte) (n : Nat), s.quay.takes record bytes → ops16 bytes = some n →
    (s.quay.move? n = none →
      exec (.moveDefer record) s = s.next (s.quay.refused record Code.moveDefer .noMove) ∧
      exec (.moveReinstate record) s = s.next (s.quay.refused record Code.moveReinstate .noMove)) ∧
    ∀ m, s.quay.move? n = some m →
      (m.state ≠ .queued →
        exec (.moveDefer record) s = s.next (s.quay.refused record Code.moveDefer .moveState)) ∧
      (m.state ≠ .deferred →
        exec (.moveReinstate record) s = s.next (s.quay.refused record Code.moveReinstate .moveState)) ∧
      (m.state = .queued → ∃ t, exec (.moveDefer record) s = .next t ∧ t.quay.answers Code.moveDefer .ok [] ∧
        t.quay.move? n = some { m with state := .deferred } ∧
        ∀ o, s.quay.order? m.order = some o →
          let stalls : Prop := o.state = .active ∧ 0 < o.live ∧ o.stalled = false ∧
            ∀ x ∈ s.quay.moves, x.order = m.order → x.num ≠ n → x.state = .deferred
          (stalls → t.quay.events = (s.quay.post { kind := .orderStalled, subject := .order, number := o.tag.toNat,
                                                   detail := [byte (s.quay.movesOf m.order).length] }).events ∧
            t.quay.orders = s.quay.orders.map fun x => if x.slot = m.order then { x with stalled := true } else x) ∧
          (¬ stalls → t.quay.events = s.quay.events ∧ t.quay.orders = s.quay.orders)) ∧
      (m.state = .deferred → ∃ t m', exec (.moveReinstate record) s = .next t ∧
        t.quay.answers Code.moveReinstate .ok [] ∧ t.quay.move? n = some m' ∧ m'.state ≠ .deferred ∧
        m'.fixed = m.fixed ∧ m'.fails = m.fails ∧
        ((s.quay.order? m.order).all (fun o => o.state ≠ .active) = true ∨
            (s.quay.crane? m.crane).any (fun x => x.current.isSome) = true →
          m' = { m with state := .queued } ∧ t.quay.cranes = s.quay.cranes) ∧
        ∀ o ∈ t.quay.orders, o.slot = m.order → o.stalled = false)

/-- MOVE CLEAR (R89 to R92, R13): BAD_VALUE, NO_MOVE, MOVE_STATE in that order on each of its rows. Of a FAULTED move,
DONE is refused with BAY_BUSY, HATCH_STATE or COUNT_RANGE, the first whose condition the bay's record meets; else it
applies the effect and frees the record; RETRY returns it to its crane as current move, fail count
0, stamp absent, or cancels it in a CANCELLING order; CANCEL frees the record without an effect. -/
def Obligations.MoveClearSettles : Prop :=
  ∀ (s : State) (record bytes : List Byte) (n k : Nat), s.quay.takes record bytes →
    opsMoveClear bytes = some (n, k) →
    (∀ c ∈ [Instr.moveClearDone record, .moveClearRetry record, .moveClearCancel record],
      (2 < k → exec c s = s.next (s.quay.refused record Code.moveClear .badValue)) ∧
      (k ≤ 2 → s.quay.move? n = none →
        exec c s = s.next (s.quay.refused record Code.moveClear .noMove)) ∧
      (k ≤ 2 → ∀ m, s.quay.move? n = some m → m.state ≠ .faulted →
        exec c s = s.next (s.quay.refused record Code.moveClear .moveState))) ∧
    ∀ m, s.quay.move? n = some m → m.state = .faulted →
      (∀ (b : Bay) (busy hatch count : Prop), k = 0 → s.quay.bay? m.bay = some b →
        (busy ↔ ∃ x ∈ s.quay.moves, x.bay = m.bay ∧ (x.state = .permitted ∨ x.state = .lifting)) →
        (hatch ↔ (m.kind = .hatchOff ∧ (b.hatch = .off ∨ 0 < b.deckCount)) ∨ (m.kind = .hatchOn ∧ b.hatch = .on) ∨
          (m.kind = .load ∧ m.sect = .deck ∧ b.hatch = .off)) →
        (count ↔ (m.kind = .discharge ∧ m.sect = .deck ∧ b.deckCount < m.cls.boxes) ∨
          (m.kind = .discharge ∧ m.sect = .hold ∧ b.holdCount < m.cls.boxes) ∨
          (m.kind = .load ∧ m.sect = .deck ∧ b.deckCap < b.deckCount + m.cls.boxes) ∨
          (m.kind = .load ∧ m.sect = .hold ∧ b.holdCap < b.holdCount + m.cls.boxes)) →
        (busy → exec (.moveClearDone record) s = s.next (s.quay.refused record Code.moveClear .bayBusy)) ∧
        (¬ busy → hatch → exec (.moveClearDone record) s = s.next (s.quay.refused record Code.moveClear .hatchState)) ∧
        (¬ busy → ¬ hatch → count →
          exec (.moveClearDone record) s = s.next (s.quay.refused record Code.moveClear .countRange)) ∧
        (¬ busy → ¬ hatch → ¬ count → ∃ t, exec (.moveClearDone record) s = .next t ∧
          t.quay.answers Code.moveClear .ok [] ∧ t.quay.move? n = none ∧ t.quay.freeList = s.quay.freeList ++ [n] ∧
          t.quay.bays.map Bay.stow = s.quay.bays.map fun b => (if b.num = m.bay then b.apply m else b).stow)) ∧
      (k = 2 → ∃ t, exec (.moveClearCancel record) s = .next t ∧ t.quay.answers Code.moveClear .ok [] ∧
        t.quay.move? n = none ∧ t.quay.freeList = s.quay.freeList ++ [n] ∧
        t.quay.bays.map Bay.stow = s.quay.bays.map Bay.stow) ∧
      (k = 1 → (s.quay.order? m.order).any (fun o => o.state = .cancelling) = true →
        ∃ t, exec (.moveClearRetry record) s = .next t ∧ t.quay.answers Code.moveClear .ok [] ∧
          t.quay.move? n = none ∧ t.quay.freeList = s.quay.freeList ++ [n]) ∧
      (k = 1 → ∀ cr, (s.quay.order? m.order).any (fun o => o.state = .cancelling) = false →
        s.quay.crane? m.crane = some cr → cr.preempt = none → s.quay.cannotGrant m.crane →
        exec (.moveClearRetry record) s = s.next (((s.quay.updMove n fun x => { x with
              stamp := none, state := if x.isHatch then .staged else .matched, fails := 0 }).updCrane m.crane
            fun x => { x with current := some n }).replied record Code.moveClear .ok []))

/-! ## Cranes -/

/-- CRANE ENABLE through the stop rule (R59, R136), and SPREADER SET (R57). (That BAD_CRANE comes before BAD_VALUE where
both apply is the model's choice: log entry 44.) -/
def Obligations.EnableAndSpreader : Prop :=
  (∀ (s : State) (record bytes : List Byte) (c v : Nat), s.quay.takes record bytes → ops8x2 bytes = some (c, v) →
    (s.quay.crane? c = none →
      exec (.craneEnable record) s = s.next (s.quay.refused record Code.craneEnable .badCrane)) ∧
    ((s.quay.crane? c).isSome = true →
      (1 < v → exec (.craneEnable record) s = s.next (s.quay.refused record Code.craneEnable .badValue)) ∧
      (v ≤ 1 → s.quay.stopInForce = true → exec (.craneEnable record) s =
        s.next ((s.quay.updCrane c fun x => { x with savedEnable := decide (v = 1) }).replied record Code.craneEnable .ok [])) ∧
      (v ≤ 1 → s.quay.stopInForce = false → ∃ t, exec (.craneEnable record) s = .next t ∧
        t.quay.answers Code.craneEnable .ok [] ∧
        t.quay.cranes.map (fun x => (x.num, x.enable, x.savedEnable)) =
          s.quay.cranes.map fun x => (x.num, if x.num = c then decide (v = 1) else x.enable, x.savedEnable)))) ∧
  ∀ (s : State) (f : RxFrame) (n mode : Nat), s.quay.hearsFrom .crane f n .crane → ops8 f.payload = some mode →
    (2 < mode → exec (.spreaderSet f) s =
      s.next ((s.quay.setAck .crane true).refuseFrame .crane n RxKind.spreaderSet .badValue)) ∧
    ∀ m, mode ≤ 2 → SpreaderMode.ofCode mode = some m → ∃ t, exec (.spreaderSet f) s = .next t ∧
      t.quay.cranes.map (fun x => (x.num, x.spreader)) =
        s.quay.cranes.map fun x => (x.num, if x.num = n then m else x.spreader)

/-- CRANE CLEAR (R56): its refusals in their order; accepted, the crane stands at the given bay, without target, gantry
timer or fault mark, and where its station is ONLINE takes up WORKING if its active order is for that bay and else IDLE
(R44). -/
def Obligations.CraneClearStands : Prop :=
  ∀ (s : State) (record bytes : List Byte) (c b : Nat), s.quay.takes record bytes → ops8x2 bytes = some (c, b) →
    (s.quay.crane? c = none →
      exec (.craneClear record) s = s.next (s.quay.refused record Code.craneClear .badCrane)) ∧
    ∀ cr, s.quay.crane? c = some cr →
      (s.quay.bay? b = none →
        exec (.craneClear record) s = s.next (s.quay.refused record Code.craneClear .badBay)) ∧
      ((s.quay.bay? b).isSome = true →
        (cr.faultMark = false →
          exec (.craneClear record) s = s.next (s.quay.refused record Code.craneClear .craneState)) ∧
        (cr.faultMark = true →
          ((∃ slot, cr.active = some slot ∧ ∃ m ∈ s.quay.moves, m.order = slot ∧ m.state = .faulted) →
            exec (.craneClear record) s = s.next (s.quay.refused record Code.craneClear .moveFaulted)) ∧
          ((∀ slot, cr.active = some slot → ∀ m ∈ s.quay.moves, m.order = slot → m.state ≠ .faulted) →
            ((∃ m, s.quay.currentMove? c = some m ∧ m.state = .lifting) →
              exec (.craneClear record) s = s.next (s.quay.refused record Code.craneClear .inFlight)) ∧
            ((∀ m, s.quay.currentMove? c = some m → m.state ≠ .lifting) →
              (¬ s.quay.spanFits c ⟨b, b⟩ →
                exec (.craneClear record) s = s.next (s.quay.refused record Code.craneClear .span)) ∧
              (s.quay.spanFits c ⟨b, b⟩ → ∃ t, exec (.craneClear record) s = .next t ∧
                t.quay.answers Code.craneClear .ok [] ∧
                t.quay.cranes.map (·.num) = s.quay.cranes.map (·.num) ∧
                ∀ x ∈ t.quay.cranes, x.num = c → x.bay = some b ∧ x.span = some ⟨b, b⟩ ∧ x.target = none ∧
                  x.gantry = .stopped ∧ x.faultMark = false ∧
                  (s.quay.craneOnline c = true → x.state = s.quay.restsAs c (some b)))))))

/-- GANTRY REQ (R50, R51, R45): BAD_BAY, STOPPED, BUSY, and SPAN with the blocking crane, where the travel span fails
the separation test: of the cranes it fails against the nearest in rail order, of two equally near the one below;
granted with the travel span, target, POSITIONING, T_GANTRY and GANTRY GRANT; without a slot dropped unanswered. -/
def Obligations.GantryReqJudged : Prop :=
  ∀ (s : State) (f : RxFrame) (c tg b : Nat) (cr : Crane), s.quay.hearsFrom .crane f c .crane →
    ops8 f.payload = some tg → s.quay.crane? c = some cr → cr.bay = some b →
    let a := s.quay.setAck .crane true
    (s.quay.bay? tg = none → exec (.gantryReq f) s =
      s.next (a.refuseFrame .crane c RxKind.gantryReq .badBay)) ∧
    ((s.quay.bay? tg).isSome = true → s.quay.stopInForce = true → exec (.gantryReq f) s =
      s.next (a.refuseFrame .crane c RxKind.gantryReq .stopped)) ∧
    ((s.quay.bay? tg).isSome = true → s.quay.stopInForce = false →
      (cr.state = .positioning ∨ cr.state = .fault ∨
          (∃ m, s.quay.currentMove? c = some m ∧ (m.state = .permitted ∨ m.state = .lifting)) →
        exec (.gantryReq f) s = s.next (a.refuseFrame .crane c RxKind.gantryReq .busy)) ∧
      (cr.state ≠ .positioning → cr.state ≠ .fault →
          (∀ m, s.quay.currentMove? c = some m → m.state ≠ .permitted ∧ m.state ≠ .lifting) →
        let fails (d : Crane) : Prop := ∃ sp, d.span = some sp ∧
          ((d.num < c ∧ min b tg < sp.high + s.quay.item Item.separation) ∨
            (c < d.num ∧ sp.low < max b tg + s.quay.item Item.separation))
        (¬ s.quay.spanFits c ⟨min b tg, max b tg⟩ → ∃ d ∈ s.quay.cranes, fails d ∧
          (∀ e ∈ s.quay.cranes, fails e → bayDistance d.num c ≤ bayDistance e.num c ∧
            (s.quay.craneNums.Pairwise (· < ·) → bayDistance e.num c = bayDistance d.num c → d.num ≤ e.num)) ∧
          exec (.gantryReq f) s = s.next (a.refuseFrame .crane c RxKind.gantryReq .span d.num)) ∧
        (s.quay.spanFits c ⟨min b tg, max b tg⟩ →
          (s.quay.routineSlot .crane = false → exec (.gantryReq f) s = s.next (a)) ∧
          (s.quay.routineSlot .crane = true → exec (.gantryReq f) s = s.next ((a.updCrane c fun x => { x with
              span := some ⟨min b tg, max b tg⟩, target := some tg, state := .positioning
              gantry := .running (s.quay.item Item.tGantry) }).enqueue .crane c
                (.gantryGrant tg (min b tg) (max b tg)))))))

/-- ARRIVED (R52, R53) and the expiry of the gantry timer (R54, R55): where the crane comes to stand, IDLE or WORKING
by the test of R44, and when it is faulted. ARRIVED at a bay outside the span in POSITIONING or FAULT, or at another
bay than its own in IDLE or WORKING, is answered with REFUSE SPAN and posts CRANE_FAULT SPAN; the crane is in FAULT
where it stood, and its PERMITTED move is withdrawn with cause FAULT. (That the fault's event precedes the withdrawal
is the model's choice: log entry 46.) -/
def Obligations.TravelEnds : Prop :=
  (∀ (s : State) (f : RxFrame) (c b : Nat) (cr : Crane), s.quay.hearsFrom .crane f c .crane →
    ops8 f.payload = some b → s.quay.crane? c = some cr →
    (∀ sp, cr.state = .positioning → cr.span = some sp → sp.low ≤ b → b ≤ sp.high →
      ∃ t, exec (.arrived f) s = .next t ∧ t.quay.cranes.map (·.num) = s.quay.cranes.map (·.num) ∧
        (∀ x ∈ t.quay.cranes, x.num = c → x.bay = some b ∧ x.span = some ⟨b, b⟩ ∧ x.target = none ∧
          x.gantry = .stopped ∧ x.state = s.quay.restsAs c (some b)) ∧
        t.quay.events = (if cr.target = some b then s.quay
          else s.quay.post (Quay.gantryShort c b (cr.target.getD 0))).events) ∧
    (cr.state = .idle ∨ cr.state = .working → cr.bay = some b →
      exec (.arrived f) s = s.next (s.quay.setAck .crane true)) ∧
    (((cr.state = .positioning ∨ cr.state = .fault) ∧ (∀ sp, cr.span = some sp → b < sp.low ∨ sp.high < b)) ∨
        ((cr.state = .idle ∨ cr.state = .working) ∧ cr.bay ≠ some b) →
      let answered := (s.quay.setAck .crane true).refuseFrame .crane c RxKind.arrived .span
      let reported := answered.post { kind := .craneFault, subject := .crane, number := c, detail := [1] }
      ∃ t, exec (.arrived f) s = .next t ∧ reported.events <+: t.quay.events ∧
        ((∀ m, s.quay.currentMove? c = some m → m.state ≠ .permitted) →
          t.quay.pool = answered.pool ∧ t.quay.events = reported.events ∧ t.quay.moves = s.quay.moves) ∧
        (∀ m, s.quay.currentMove? c = some m → m.state = .permitted →
          (∀ x ∈ t.quay.moves, x.num = m.num → x.state ≠ .permitted) ∧ s.quay.reports t.quay
            { kind := .permitLapsed, subject := .move, number := m.num, detail := [6], stamp := m.stamp }) ∧
        t.quay.cranes.map Crane.standing = s.quay.cranes.map Crane.standing ∧
        ∀ x ∈ t.quay.cranes, x.num = c → x.faultMark = true ∧ x.state = .fault ∧
          (cr.state = .positioning → x.gantry = .stopped ∧ x.target = none)) ∧
    (∀ sp, cr.state = .fault → cr.span = some sp → sp.low ≤ b → b ≤ sp.high → exec (.arrived f) s =
      s.next ((s.quay.setAck .crane true).updCrane c fun x =>
        { x with span := some ⟨b, b⟩, bay := some b, target := none }))) ∧
  ∀ (s : State) (c : Nat) (cr : Crane), s.quay.crane? c = some cr → cr.gantry.isRunning = true →
    cr.state = .positioning → ∃ t, exec (.gantryTimerExpiry c) s = .next t ∧
      t.quay.cranes.map Crane.standing = s.quay.cranes.map Crane.standing ∧
      t.quay.cranes.map (·.target) = s.quay.cranes.map (·.target) ∧
      (∀ x ∈ t.quay.cranes, x.num = c → x.faultMark = true ∧ x.gantry = .stopped ∧
        (s.quay.craneOnline c = true → x.state = .fault)) ∧
      (s.quay.post (Quay.gantryOverdue c (cr.target.getD 0))).events <+: t.quay.events

/-! ## The lift permit -/

/-- The conditions of R72, and the grant of R76 where they hold for a current move that awaits its permit; where one
fails nothing changes. The counter advances by one and wraps (R75). -/
def Obligations.PermitJudgement : Prop :=
  ∀ (q : Quay) (c : Nat) (cr : Crane) (m : Move), q.grantBar ≠ some c → q.crane? c = some cr →
    q.currentMove? c = some m →
    let conditions : Prop :=
      (m.state = .matched ∨ (m.state = .staged ∧ m.isHatch = true)) ∧
      (q.station .crane c).state = .online ∧ cr.state = .working ∧ cr.bay = some m.bay ∧
      cr.span = some ⟨m.bay, m.bay⟩ ∧ cr.enable = true ∧ q.stop.sources = [] ∧
      (q.craneLink.state = .active ∨ q.craneLink.state = .warn) ∧
      (∃ b, q.bay? m.bay = some b ∧ b.allows m = true) ∧
      (∀ g ∈ q.gangs, g.state = .working → g.bay ≠ some m.bay) ∧
      (m.isHatch = false → ∃ tr l head rest, m.truck = some tr ∧ q.laneByLogical? tr.lane = some l ∧
        l.fifo = head :: rest ∧ head.tag = tr.tag ∧ head.set = true ∧ l.state = .opened ∧
        (q.station .lane l.phys).state = .online) ∧
      cr.spreader = (if m.cls = .twin20 then .twin else .single) ∧
      (q.routineOn .crane < q.item Item.txCap ∧ q.routineAll < 32 ∧ q.pool.length < 40)
    (¬ conditions → q.judge c = q) ∧
    (conditions → q.judge c =
      ((((q.setCounter (q.grantCounter + 1)).updMove m.num fun x => { x with
          state := .permitted, stamp := some (q.grantCounter + 1) }).updCrane c fun x => { x with
          accept := .running (q.item Item.tAccept) }).enqueue .crane c
        (.liftPermit (q.grantCounter + 1) m.num m.bay m.sect m.kind m.cls m.row m.tier m.truck)))

/-- LIFT START (R81): the four findings and their outcomes. -/
def Obligations.LiftStartTable : Prop :=
  ∀ (s : State) (f : RxFrame) (n : Nat) (stamp : Word16), s.quay.hearsFrom .crane f n .crane →
    opsTag f.payload = some stamp →
    let a := s.quay.setAck .crane true
    let named (st : MoveState) : Prop :=
      ∃ m, s.quay.currentMove? n = some m ∧ m.state = st ∧ m.stamp = some stamp
    let faulted : Prop :=
      ∃ o, s.quay.activeOrder? n = some o ∧ ∃ m ∈ s.quay.moves, m.order = o.slot ∧ m.state = .faulted ∧
        m.stamp = some stamp
    (∀ m, s.quay.currentMove? n = some m → m.state = .permitted → m.stamp = some stamp →
      exec (.liftStart f) s =
        s.next ((a.updCrane n fun x => { x with accept := .stopped, lift := .running (s.quay.item Item.tLift) }).updMove m.num
          fun x => { x with state := .lifting })) ∧
    (named .lifting → exec (.liftStart f) s = s.next (a)) ∧
    (¬ named .permitted → ¬ named .lifting → faulted → exec (.liftStart f) s =
      s.next (a.sendUrgent .crane n (.liftAbort stamp RxKind.liftStart .notPermitted))) ∧
    (¬ named .permitted → ¬ named .lifting → ¬ faulted → exec (.liftStart f) s =
      s.next (a.sendUrgent .crane n (.liftAbort stamp RxKind.liftStart .stale)))

/-- LIFT DONE of the LIFTING current move (R83, R84, R12, R36, R112): the lift timer stops, its truck is released, LADEN
with each read box or else the recorded one after a DISCHARGE, EMPTY after a LOAD, the effect is applied to the bay, the
record returns to the free list, the move is counted done against its order, which leaves with its last: R35 then takes
the pending order, pops the stack (R64) or takes the list's head (Quay.takesUp). Else a pending preemption is pushed
onto the ACTIVE order, with WORK NOTICE (R62, R63), unless a move of it is still PERMITTED, LIFTING or FAULTED; and
where nothing else asks for the crane, a QUEUED move of the order becomes current (R68). Staging (R67, R69): the QUEUED
move of lowest issue position of an ACTIVE order without a FAULTED move, when the crane has no current move; it is
STAGED, a truck is called (R107) or NO_LANE posted, the truck wait timer starts, SPREADER CHANGE goes out where the mode
does not suit, binding is evaluated (TruckEnterJoinsTail), the move is judged; a hatch move is judged only; the same
when it is staged anew (stageSteps). (While the crane's JOIN is carried out no move is staged: log entry 10.) A
cancelled move's truck is released with what it carries, or EMPTY (R112). The premises of the order's end and of the
pending push are what holds of the order of a crane's current move: it is an order for that crane, and no other crane's
current move is of it. (That HOLD_POP shows the bay of an entry pushed without a bay as 0 is the model's inference: log
entry 32.) -/
def Obligations.LiftDoneEndsMove : Prop :=
  (∀ (s : State) (f : RxFrame) (n : Nat) (stamp : Word16) (b p : Option Word32) (m : Move),
    s.quay.hearsFrom .crane f n .crane → opsLiftDone f.payload = some (stamp, b, p) →
    s.quay.currentMove? n = some m → m.state = .lifting → m.stamp = some stamp →
    ∃ t, exec (.liftDone f) s = .next t ∧ t.quay.move? m.num = none ∧
      t.quay.freeList = s.quay.freeList ++ [m.num] ∧
      t.quay.bays.map Bay.stow = s.quay.bays.map (fun x => (if x.num = m.bay then x.apply m else x).stow) ∧
      (∀ x ∈ t.quay.cranes, x.num = n → x.lift = .stopped) ∧
      (∀ tr l, m.truck = some tr → s.quay.laneOfTag? tr.tag = some l →
        (m.kind = .discharge → s.quay.released t.quay tr l .laden (b <|> m.box) (p <|> m.partner)) ∧
        (m.kind = .load → s.quay.released t.quay tr l .empty none none)) ∧
      (∀ o, s.quay.order? m.order = some o →
        (o.live ≤ 1 → t.quay.order? m.order = none) ∧
        (1 < o.live → ∃ o', t.quay.order? m.order = some o' ∧ o'.live = o.live - 1 ∧ o'.done = o.done + 1 ∧
          o'.cancelled = o.cancelled) ∧
        ∀ cr, s.quay.crane? n = some cr → cr.active = some m.order → cr.preempt = none → o.state = .active → 1 < o.live →
          s.quay.grantBar ≠ some n → s.quay.MovesOnce →
          (∀ x ∈ s.quay.moves, x.order = m.order → x = m ∨ x.state = .queued ∨ x.state = .deferred) →
          (∃ x ∈ s.quay.moves, x.order = m.order ∧ x.state = .queued) →
          ∃ x ∈ s.quay.moves, x.order = m.order ∧ x.state = .queued ∧
            (t.quay.crane? n).map (·.current) = some (some x.num)) ∧
      (∀ o cr, s.quay.order? m.order = some o → s.quay.crane? n = some cr → cr.active = some m.order → s.quay.MovesOnce →
        o.crane = n → (∀ c y, s.quay.currentMove? c = some y → y.order = m.order → c = n) →
        ∃ x, t.quay.crane? n = some x ∧ (o.live ≤ 1 → s.quay.takesUp t.quay n m.order cr x) ∧
          ∀ p po, 1 < o.live → cr.preempt = some p → s.quay.order? p = some po → p ≠ m.order →
            let held : Prop := o.state ≠ .active ∨ ∃ y ∈ s.quay.moves, y.order = m.order ∧ y ≠ m ∧
              (y.state = .permitted ∨ y.state = .lifting ∨ y.state = .faulted)
            (held → x.active = some m.order ∧ x.preempt = some p ∧ x.stack = cr.stack) ∧
            (¬ held → x.active = some p ∧ x.preempt = none ∧
              x.stack = ⟨m.order, cr.bay, cr.spreader,
                if s.quay.stop.sources = [] then cr.enable else cr.savedEnable⟩ :: cr.stack ∧
              (s.quay.stop.sources ≠ [] → x.savedEnable = true ∧ x.enable = cr.enable) ∧
              (s.quay.stop.sources = [] → x.enable = true ∧ x.savedEnable = cr.savedEnable) ∧
              (t.quay.order? m.order).map (·.state) = some .stacked ∧ (t.quay.order? p).map (·.state) = some .active ∧
              x.state = (if cr.state = .idle ∨ cr.state = .working then t.quay.restsAs n cr.bay else cr.state) ∧
              (∀ k, (∀ c y, s.quay.currentMove? c = some y → y.order ≠ p) → Quay.leads s.quay.moves p k →
                s.quay.sent t.quay .crane n (.workNotice po.tag po.bay po.sect k.cls)) ∧
              s.quay.reports t.quay
                { kind := .holdPush, subject := .crane, number := n, detail := be16 o.tag ++ be16 po.tag }))) ∧
  (∀ (q : Quay) (c : Nat), q.grantBar ≠ some c →
    ((∀ cr, q.crane? c = some cr → cr.active = none) → q.applyStaging c = q) ∧
    ∀ cr slot o, q.crane? c = some cr → cr.active = some slot → q.order? slot = some o →
      (cr.current ≠ none ∨ o.state ≠ .active ∨ (∃ x ∈ q.moves, x.order = slot ∧ x.state = .faulted) ∨
        (∀ x ∈ q.moves, x.order = slot → x.state ≠ .queued) → q.applyStaging c = q) ∧
      ∀ m ∈ q.moves, cr.current = none → o.state = .active → (∀ x ∈ q.moves, x.order = slot → x.state ≠ .faulted) →
        m.order = slot → m.state = .queued →
        (∀ x ∈ q.moves, x.order = slot → x.state = .queued → x = m ∨ m.pos < x.pos) →
        let suiting : SpreaderMode := if m.cls = .twin20 then .twin else .single
        let staged := (q.updMove m.num fun x => { x with state := .staged }).updCrane c fun x =>
          { x with current := some m.num }
        let called := (staged.callTruck c m).updCrane c fun x =>
          { x with truckWait := .running (q.item Item.tTruck), late := 0 }
        (m.isHatch = true → q.applyStaging c = staged.judge c) ∧
        (m.isHatch = false → q.applyStaging c =
          ((if cr.spreader = suiting then called else called.sendCrane c (.spreaderChange suiting)).evalBinding c).judge c)) ∧
  (∀ (q : Quay) (c : Nat) (cr : Crane) (m : Move) (leaving : Option Word16), q.crane? c = some cr →
    let suiting : SpreaderMode := if m.cls = .twin20 then .twin else .single
    let called := (q.callTruck c m).updCrane c fun x =>
      { x with truckWait := .running (q.item Item.tTruck), late := 0 }
    (m.isHatch = true → q.stageSteps c m leaving = q.judge c) ∧
    (m.isHatch = false → q.stageSteps c m leaving =
      ((if cr.spreader = suiting then called
        else called.sendCrane c (.spreaderChange suiting)).evalBinding c leaving).judge c)) ∧
  (∀ (q : Quay) (c : Nat) (m : Move),
    (∀ l, q.callable c l →
      (∀ k, q.callable c k → k = l ∨ l.fifo.length < k.fifo.length ∨
        (l.fifo.length = k.fifo.length ∧ l.logical < k.logical)) →
      q.callTruck c m = q.sendRoutine .lane l.phys (.truckCall l.logical c m.bay m.cls m.kind m.box m.partner)) ∧
    ((∀ l, ¬ q.callable c l) →
      ((∀ l ∈ q.lanes, l.crane = some c → l.state ≠ .opened) →
        q.callTruck c m = q.post { kind := .noLane, subject := .crane, number := c, detail := [0] }) ∧
      ((∃ l ∈ q.lanes, l.crane = some c ∧ l.state = .opened) →
        q.callTruck c m = q.post { kind := .noLane, subject := .crane, number := c, detail := [1] }))) ∧
  ∀ (q : Quay) (m : Move) (tr : TruckRef) (l : Lane) (y : Truck), m.truck = some tr → q.laneOfTag? tr.tag = some l →
    (l.fifo.find? fun x => x.tag = tr.tag) = some y →
    (y.load = .laden → q.released (q.releaseCancelled m) tr l .laden y.box y.partner) ∧
    (y.load = .empty → q.released (q.releaseCancelled m) tr l .empty none none)

/-- LIFT FAIL (R85, R86): BAD_VALUE for a reason that is none; for the LIFTING current move the fail count rises and the
lift timer stops; at FAIL_LIMIT the move is FAULTED and its crane in FAULT; in a CANCELLING order it is cancelled; else
it returns. SPREADER sets the mode to UNKNOWN. CONE puts an OPEN bay of a deck box to UNLASH_DUE, whatever becomes of
the move; where it is cancelled and was the bay's last live deck move, the end of deck work then finds the bay
UNLASH_DUE and makes it LASHED (R117). Where the move is not cancelled, the bay stands at the tail of the dispatch list
unless the dispatch made then took it from there (R120, R121; that the dispatch comes before the report of the bay's
change is log entry 11). -/
def Obligations.LiftFailOutcomes : Prop :=
  ∀ (s : State) (f : RxFrame) (n : Nat) (stamp : Word16) (reason : Nat),
    s.quay.hearsFrom .crane f n .crane → opsLiftFail f.payload = some (stamp, reason) →
    (2 < reason → exec (.liftFail f) s =
      s.next ((s.quay.setAck .crane true).refuseFrame .crane n RxKind.liftFail .badValue)) ∧
    ∀ m, reason ≤ 2 → s.quay.currentMove? n = some m → m.state = .lifting → m.stamp = some stamp → s.quay.MovesOnce →
      ∃ t, exec (.liftFail f) s = .next t ∧
        (∀ x ∈ t.quay.cranes, x.num = n → x.lift = .stopped ∧ (reason = 1 → x.spreader = .unknown)) ∧
        (reason = 0 → m.sect = .deck → m.isHatch = false → ∀ b, s.quay.bay? m.bay = some b → b.lash = .opened →
          (t.quay.bay? m.bay).map (·.lash) = some (
            if m.fails + 1 < s.quay.item Item.failLimit ∧
                (s.quay.order? m.order).any (fun o => o.state = .cancelling) = true ∧ t.quay.liveMoves m.bay .deck = 0
              then .lashed else .unlashDue) ∧
          (s.quay.item Item.failLimit ≤ m.fails + 1 ∨
              (s.quay.order? m.order).any (fun o => o.state = .cancelling) = false →
            t.quay.Dispatched s.quay.gangs ((s.quay.dispatch.filter fun x => x ≠ m.bay) ++ [m.bay]) t.quay.gangs
              t.quay.dispatch)) ∧
        (s.quay.item Item.failLimit ≤ m.fails + 1 →
          (∃ m', t.quay.move? m.num = some m' ∧ m'.state = .faulted ∧ m'.fails = m.fails + 1 ∧ m'.stamp = m.stamp) ∧
          ∀ x ∈ t.quay.cranes, x.num = n → x.faultMark = true ∧ x.state = .fault) ∧
        (m.fails + 1 < s.quay.item Item.failLimit →
          ((s.quay.order? m.order).any (fun o => o.state = .cancelling) = true →
            t.quay.move? m.num = none ∧ t.quay.freeList = s.quay.freeList ++ [m.num]) ∧
          ((s.quay.order? m.order).any (fun o => o.state = .cancelling) = false →
            ∃ m', t.quay.move? m.num = some m' ∧ m'.state ≠ .lifting ∧ m'.state ≠ .faulted ∧
              m'.fails = m.fails + 1))

/-- A LIFT DONE or LIFT FAIL whose stamp does not name the crane's LIFTING current move is answered with LIFT ABORT
STALE, and nothing else changes (R88); a LIFT FAIL whose reason is none is answered with BAD_VALUE before its stamp is
looked at (R85). -/
def Obligations.StaleLiftFrames : Prop :=
  ∀ (s : State) (f : RxFrame) (n : Nat) (stamp : Word16), s.quay.hearsFrom .crane f n .crane →
    (¬ ∃ m, s.quay.currentMove? n = some m ∧ m.state = .lifting ∧ m.stamp = some stamp) →
    (∀ b p, opsLiftDone f.payload = some (stamp, b, p) → exec (.liftDone f) s =
      s.next ((s.quay.setAck .crane true).sendUrgent .crane n (.liftAbort stamp RxKind.liftDone .stale))) ∧
    (∀ reason, reason ≤ 2 → opsLiftFail f.payload = some (stamp, reason) → exec (.liftFail f) s =
      s.next ((s.quay.setAck .crane true).sendUrgent .crane n (.liftAbort stamp RxKind.liftFail .stale))) ∧
    (∀ reason, 2 < reason → opsLiftFail f.payload = some (stamp, reason) → exec (.liftFail f) s =
      s.next ((s.quay.setAck .crane true).refuseFrame .crane n RxKind.liftFail .badValue))

/-- The expiries of the acceptance timer (R80, R77), the lift timer (R82, R87, R55) and the truck wait timer (R70). -/
def Obligations.LiftTimersExpire : Prop :=
  ∀ (s : State) (c : Nat) (cr : Crane) (m : Move), s.quay.crane? c = some cr → s.quay.currentMove? c = some m →
    (cr.accept.isRunning = true → m.state = .permitted → exec (.acceptanceTimerExpiry c) s = s.next
      (((((((s.quay.updCrane c fun x => { x with accept := .stopped }).updMove m.num fun x => { x with
        stamp := none, state := if m.isHatch then .staged else .matched }).sendUrgent .crane c
          (.permitWithdraw (m.stamp.getD 0) .accept)).post (Quay.permitLapsed m.num .accept m.stamp)).takePending
            c).applyStaging c).judge c)) ∧
    (cr.lift.isRunning = true → m.state = .lifting → exec (.liftTimerExpiry c) s =
      s.next (((((s.quay.updCrane c fun x => { x with lift := .stopped, current := none }).updMove m.num fun x => { x with
        state := .faulted }).post (Quay.moveFaultEvent m .liftTimer)).updCrane c fun x => { x with
          faultMark := true, state := if s.quay.craneOnline c then .fault else x.state }).post
            (Quay.craneFaultEvent c 0))) ∧
    (cr.truckWait.isRunning = true → m.state = .staged → m.isHatch = false →
      exec (.truckWaitTimerExpiry c) s =
        s.next (((((s.quay.updCrane c fun x => { x with late := min 255 (cr.late + 1) }).post
          (truckLate m (min 255 (cr.late + 1)) (s.quay.tagOf m.order))).callTruck c m).updCrane c fun x => { x with
            truckWait := .running (s.quay.item Item.tTruck) })))

/-! ## Truck lanes -/

/-- LANE OPEN, LANE CLEAR and the lockout (R98). -/
def Obligations.LaneOpenAndClear : Prop :=
  (∀ (s : State) (record bytes : List Byte) (n : Nat), s.quay.takes record bytes → ops8 bytes = some n →
    (s.quay.laneByLogical? n = none →
      exec (.laneOpen record) s = s.next (s.quay.refused record Code.laneOpen .badLane) ∧
      exec (.laneClear record) s = s.next (s.quay.refused record Code.laneClear .badLane)) ∧
    ∀ l, s.quay.laneByLogical? n = some l →
      let opened (t : State) : Prop :=
        t.quay.lanes.map Lane.course = s.quay.lanes.map fun x =>
          if x.phys = l.phys then
            (if s.quay.item Item.obsLockout = 0 then (x.phys, LaneState.opened, x.lockout, x.window)
             else (x.phys, LaneState.opening, Timer.running (s.quay.item Item.obsLockout), x.window))
          else x.course
      (l.state = .closed → ∃ t, exec (.laneOpen record) s = .next t ∧ t.quay.answers Code.laneOpen .ok [] ∧
        opened t) ∧
      (l.state = .opening ∨ l.state = .opened ∨ l.state = .caution →
        exec (.laneOpen record) s = s.next (s.quay.replied record Code.laneOpen .ok [])) ∧
      (l.state = .faulted →
        exec (.laneOpen record) s = s.next (s.quay.refused record Code.laneOpen .laneState)) ∧
      (l.state = .faulted → ∃ t, exec (.laneClear record) s = .next t ∧ t.quay.answers Code.laneClear .ok [] ∧
        opened t) ∧
      (l.state ≠ .faulted →
        exec (.laneClear record) s = s.next (s.quay.refused record Code.laneClear .laneState))) ∧
  ∀ (s : State) (p : Nat) (l : Lane), s.quay.lane? p = some l → l.state = .opening → l.lockout.isRunning = true →
    ∃ t, exec (.lockoutTimerExpiry p) s = .next t ∧ t.quay.lanes.map Lane.course = s.quay.lanes.map fun x =>
      if x.phys = p then (x.phys, .opened, .stopped, x.window) else x.course

/-- LANE CLOSE (R99) and LANE ASSIGN (R113): their refusals in order, IN_USE while the lane's bound truck, its head
(R95), is bound to a move in PERMITTED, LIFTING or FAULTED; a closed lane has its timers stopped, an assigned lane its
crane and no misorder mark; the trucks keep their places. Where the bound truck's move is MATCHED it is unbound and
the move staged anew (R71; not with that truck: log entry 12); then the change is reported and binding evaluated for
the lane's crane (R97), the new one at LANE ASSIGN. -/
def Obligations.LaneCloseAndAssign : Prop :=
  (∀ (s : State) (record bytes : List Byte) (n : Nat), s.quay.takes record bytes → ops8 bytes = some n →
    (s.quay.laneByLogical? n = none →
      exec (.laneClose record) s = s.next (s.quay.refused record Code.laneClose .badLane)) ∧
    ∀ l, s.quay.laneByLogical? n = some l →
      let inUse : Prop := ∃ truck rest k m, l.fifo = truck :: rest ∧ truck.bound = some k ∧ s.quay.move? k = some m ∧
        (m.state = .permitted ∨ m.state = .lifting ∨ m.state = .faulted)
      (inUse →
        exec (.laneClose record) s = s.next (s.quay.refused record Code.laneClose .inUse)) ∧
      (¬ inUse → l.state = .closed →
        exec (.laneClose record) s = s.next (s.quay.replied record Code.laneClose .ok [])) ∧
      (¬ inUse → l.state ≠ .closed → ∃ t, exec (.laneClose record) s = .next t ∧
        t.quay.answers Code.laneClose .ok [] ∧ t.quay.lanes.map Lane.tags = s.quay.lanes.map Lane.tags ∧
        t.quay.lanes.map Lane.course = s.quay.lanes.map fun x =>
          if x.phys = l.phys then (x.phys, .closed, .stopped, .stopped) else x.course) ∧
      (¬ inUse → l.state ≠ .closed →
        let closed := (s.quay.serving record).updLane l.phys fun x =>
          { x with state := .closed, lockout := .stopped, window := .stopped }
        (∀ truck k m tr, l.fifo.head? = some truck → truck.bound = some k → s.quay.move? k = some m →
          m.state = .matched → m.truck = some tr → exec (.laneClose record) s = s.next
            ((((closed.parted m tr.tag).stageSteps m.crane m (some tr.tag)).laneChanged l.phys).answered Code.laneClose
              .ok [])) ∧
        ((∀ truck k m, l.fifo.head? = some truck → truck.bound = some k → s.quay.move? k = some m → m.state ≠ .matched) →
          exec (.laneClose record) s = s.next ((closed.laneChanged l.phys).answered Code.laneClose .ok [])))) ∧
  (∀ (q : Quay) (p : Nat) (l : Lane), q.lane? p = some l →
    (l.crane = none → q.laneChanged p = q.judgeLane p) ∧
    (∀ c, l.crane = some c → q.laneChanged p = (q.judgeLane p).evalBinding c) ∧
    ((∀ y, l.fifo.head? = some y → y.bound = none) → q.judgeLane p = q) ∧
    ∀ y k m x, l.fifo.head? = some y → y.bound = some k → q.move? k = some m → q.currentMove? m.crane = some x →
      q.judgeLane p = if x.num = k then q.judge m.crane else q) ∧
  ∀ (s : State) (record bytes : List Byte) (n c : Nat), s.quay.takes record bytes → ops8x2 bytes = some (n, c) →
    (s.quay.laneByLogical? n = none →
      exec (.laneAssign record) s = s.next (s.quay.refused record Code.laneAssign .badLane)) ∧
    ∀ l, s.quay.laneByLogical? n = some l →
      let inUse : Prop := ∃ truck rest k m, l.fifo = truck :: rest ∧ truck.bound = some k ∧ s.quay.move? k = some m ∧
        (m.state = .permitted ∨ m.state = .lifting ∨ m.state = .faulted)
      (c ≠ 0 → s.quay.crane? c = none →
        exec (.laneAssign record) s = s.next (s.quay.refused record Code.laneAssign .badCrane)) ∧
      (c = 0 ∨ (s.quay.crane? c).isSome = true →
        (c ≠ 0 → l.crane ≠ some c → 3 ≤ (s.quay.lanes.filter fun x => x.crane = some c).length →
          exec (.laneAssign record) s = s.next (s.quay.refused record Code.laneAssign .laneLimit)) ∧
        (c ≠ 0 → l.crane = some c →
          exec (.laneAssign record) s = s.next (s.quay.replied record Code.laneAssign .ok [])) ∧
        (c = 0 ∨ (l.crane ≠ some c ∧ (s.quay.lanes.filter fun x => x.crane = some c).length < 3) →
          (inUse →
            exec (.laneAssign record) s = s.next (s.quay.refused record Code.laneAssign .inUse)) ∧
          (¬ inUse → ∃ t, exec (.laneAssign record) s = .next t ∧
            t.quay.answers Code.laneAssign .ok [] ∧ t.quay.lanes.map Lane.tags = s.quay.lanes.map Lane.tags ∧
            t.quay.lanes.map (fun x => (x.phys, x.crane)) = s.quay.lanes.map fun x =>
              (x.phys, if x.phys = l.phys then (if c = 0 then none else some c) else x.crane)) ∧
          (¬ inUse →
            let given (q : Quay) : Quay := q.updLane l.phys fun x =>
              { x with
                crane := if c = 0 then none else some c
                fifo := x.fifo.map fun y => { y with misorder := false } }
            let bound (q : Quay) : Quay := if c = 0 then q else q.evalBinding c
            (∀ truck k m tr, l.fifo.head? = some truck → truck.bound = some k → s.quay.move? k = some m →
              m.state = .matched → m.truck = some tr → exec (.laneAssign record) s = s.next
                ((bound (given (((s.quay.serving record).parted m tr.tag).stageSteps m.crane m (some tr.tag)))).answered
                  Code.laneAssign .ok [])) ∧
            ((∀ truck k m, l.fifo.head? = some truck → truck.bound = some k → s.quay.move? k = some m →
              m.state ≠ .matched) → exec (.laneAssign record) s = s.next
                ((bound (given (s.quay.serving record))).answered Code.laneAssign .ok [])))))

/-- TRUCK ENTER (R103): BAD_VALUE, LANE_CLOSED, LANE_FULL, TAG_DUP in that order; taken, the truck stands at the tail
of the FIFO of the gate's lane with the given fields, not SET, unbound and unmarked, and where it is alone there
binding is evaluated for the lane's crane (R102). Which truck suits which move (R108), and binding (R109): for a
non-hatch current move in STAGED the suiting free head in the lane of lowest logical number is bound, the move
MATCHED, the truck wait timer stopped, the move judged; else, under FLEX, the candidate of lowest issue position is
promoted with such a head (R110); else each free head that carries boxes of another move of the order is reported once
with TRUCK_MISORDER and marked (R111; in what order several are reported is log entry 45). A truck that is leaving is
no free head (log entry 12). -/
def Obligations.TruckEnterJoinsTail : Prop :=
  (∀ (s : State) (f : RxFrame) (p : Nat) (o : TruckEnterOps) (l : Lane), s.quay.hearsFrom .lane f p .gate →
    opsTruckEnter f.payload = some o → s.quay.lane? p = some l →
    let a := s.quay.setAck .lane true
    let bad : Prop := o.tag = 0 ∨ (o.load = .laden ∧ o.box = none) ∨ (o.partner.isSome = true ∧ o.capacity = .c20)
    let shut : Prop := l.state = .disabled ∨ l.state = .closed ∨ l.state = .faulted
    let known : Prop := ∃ x ∈ s.quay.lanes, ∃ y ∈ x.fifo, y.tag = o.tag
    (bad → exec (.truckEnter f) s =
      s.next (a.refuseFrame .lane p RxKind.truckEnter .badValue)) ∧
    (¬ bad → shut → exec (.truckEnter f) s =
      s.next (a.refuseFrame .lane p RxKind.truckEnter .laneClosed)) ∧
    (¬ bad → ¬ shut → 4 ≤ l.fifo.length → exec (.truckEnter f) s =
      s.next (a.refuseFrame .lane p RxKind.truckEnter .laneFull)) ∧
    (¬ bad → ¬ shut → l.fifo.length < 4 → known → exec (.truckEnter f) s =
      s.next (a.refuseFrame .lane p RxKind.truckEnter .tagDup)) ∧
    (¬ bad → ¬ shut → l.fifo.length < 4 → ¬ known → ∃ t, exec (.truckEnter f) s = .next t ∧
      t.quay.lanes.map Lane.tags = s.quay.lanes.map (fun x =>
        if x.phys = p then (x.phys, x.fifo.map (·.tag) ++ [o.tag]) else x.tags) ∧
      ∃ x ∈ t.quay.lanes, x.phys = p ∧ ∃ y ∈ x.fifo, y.tag = o.tag ∧ y.load = o.load ∧ y.capacity = o.capacity ∧
        y.box = o.box ∧ y.partner = o.partner ∧ y.set = false) ∧
    (¬ bad → ¬ shut → l.fifo.length < 4 → ¬ known →
      let entered := a.updLane p fun x =>
        { x with fifo := x.fifo ++ [⟨o.tag, o.load, o.capacity, o.box, o.partner, false, none, false⟩] }
      (l.fifo ≠ [] ∨ l.crane = none → exec (.truckEnter f) s = s.next entered) ∧
      ∀ c, l.fifo = [] → l.crane = some c → exec (.truckEnter f) s = s.next (entered.evalBinding c))) ∧
  (∀ (y : Truck) (m : Move), y.boxes = y.box.toList ++ y.partner.toList ∧ m.boxes = m.box.toList ++ m.partner.toList ∧
    (m.kind = .discharge → (y.suits m = true ↔ y.load = .empty ∧
      (m.cls = .single20 ∨ ((m.cls = .single40 ∨ m.cls = .twin20) ∧ y.capacity = .c40)) ∧
      (y.boxes = [] ∨ m.boxes = [] ∨ ∀ x, x ∈ y.boxes ↔ x ∈ m.boxes))) ∧
    (m.kind = .load → (y.suits m = true ↔ y.load = .laden ∧ ∀ x, x ∈ y.boxes ↔ x ∈ m.boxes)) ∧
    (m.isHatch = true → y.suits m = false) ∧
    (y.carriesBoxesOf m = true ↔ y.boxes ≠ [] ∧ m.boxes ≠ [] ∧ y.suits m = true)) ∧
  (∀ (q : Quay) (c n : Nat) (l : Lane) (y : Truck), q.bindTruck c n l y =
    (((q.updTruck y.tag fun x => { x with bound := some n }).updMove n fun x =>
      { x with truck := some ⟨y.tag, l.logical⟩, state := .matched }).updCrane c fun x =>
      { x with truckWait := .stopped }).judge c) ∧
  ∀ (q : Quay) (c : Nat) (leaving : Option Word16),
    ((∀ m, q.currentMove? c = some m → m.state ≠ .staged ∨ m.isHatch = true) → q.evalBinding c leaving = q) ∧
    ∀ m, q.currentMove? c = some m → m.state = .staged → m.isHatch = false →
      let flex : Prop := (q.order? m.order).bind (·.ordering) = some .flex
      let candidate (x : Move) : Prop := x.order = m.order ∧ x.group = m.group ∧ x.state = .queued ∧
        ∃ l y, q.freeHead c leaving l y ∧ y.carriesBoxesOf x = true
      let early (y : Truck) (x : Move) : Prop := x.order = m.order ∧ x.num ≠ m.num ∧ y.carriesBoxesOf x = true
      (∀ l y, q.firstHead c leaving (fun z => z.suits m) l y → q.evalBinding c leaving = q.bindTruck c m.num l y) ∧
      ((∀ l y, q.freeHead c leaving l y → y.suits m = false) →
        (∀ x ∈ q.moves, flex → candidate x → (∀ z ∈ q.moves, candidate z → z = x ∨ x.pos < z.pos) →
          ∀ l y, q.firstHead c leaving (fun z => z.carriesBoxesOf x) l y →
            q.evalBinding c leaving = ((q.updMove m.num fun z => { z with state := .queued }).updCrane c fun z =>
              { z with current := some x.num }).bindTruck c x.num l y) ∧
        (¬ flex ∨ (∀ x ∈ q.moves, ¬ candidate x) →
          SameBut [.lanes, .events] q (q.evalBinding c leaving) ∧
          (q.evalBinding c leaving).lanes.map Lane.tags = q.lanes.map Lane.tags ∧
          ((∀ l y, q.freeHead c leaving l y → y.misorder = false → ∀ x ∈ q.moves, ¬ early y x) → q.evalBinding c leaving = q) ∧
          ∀ l y, q.freeHead c leaving l y → y.misorder = false →
            ∀ x ∈ q.moves, early y x → (∀ z ∈ q.moves, early y z → z = x ∨ x.pos < z.pos) →
              q.reports (q.evalBinding c leaving)
                { kind := .truckMisorder, subject := .lane, number := l.logical, detail := be16 y.tag ++ be16n x.num } ∧
              ∀ k ∈ (q.evalBinding c leaving).lanes, ∀ z ∈ k.fifo, z.tag = y.tag → z.misorder = true))

/-- TRUCK SET (R104), TRUCK EXIT (R105) and SPOT (R114). TRUCK SET reports the change and queues TRUCK POSITION to the
lane's crane where that is ONLINE. TRUCK EXIT of an unbound truck removes it, the next made head (R102); that of a
MATCHED move's truck unbinds it first and stages the move anew (R71); that of a PERMITTED move's truck before that
withdraws the permit with cause TRUCK (R77), and a pending preemption and the judgement follow (R62); the move is not
bound to that truck again (log entry 12). -/
def Obligations.TrucksSetLeaveAndSpot : Prop :=
  (∀ (s : State) (f : RxFrame) (p : Nat) (tag : Word16) (l : Lane), s.quay.hearsFrom .lane f p .gate →
    opsTag f.payload = some tag → s.quay.lane? p = some l →
    let a := s.quay.setAck .lane true
    ((l.fifo.head?.map (·.tag)) ≠ some tag → exec (.truckSet f) s =
      s.next (a.refuseFrame .lane p RxKind.truckSet .order)) ∧
    ((l.fifo.head?.map (·.tag)) = some tag → ∃ t, exec (.truckSet f) s = .next t ∧
      t.quay.lanes = s.quay.lanes.map fun x =>
        { x with fifo := x.fifo.map fun y => if y.tag = tag then { y with set := true } else y }) ∧
    ((l.fifo.head?.map (·.tag)) = some tag →
      let told := (a.updTruck tag fun y => { y with set := true }).judgeLane p
      (∀ c, l.crane = some c → (s.quay.station .crane c).state = .online → exec (.truckSet f) s =
        s.next (told.sendRoutine .crane c (.truckPosition l.logical tag))) ∧
      ((∀ c, l.crane = some c → (s.quay.station .crane c).state ≠ .online) → exec (.truckSet f) s = s.next told)) ∧
    (s.quay.laneOfTag? tag = none → exec (.truckExit f) s = s.next (a)) ∧
    (∀ k, s.quay.laneOfTag? tag = some k → k.phys ≠ p → exec (.truckExit f) s =
      s.next (a.refuseFrame .lane p RxKind.truckExit .wrongLane)) ∧
    (∀ k y, s.quay.laneOfTag? tag = some k → k.phys = p → (k.fifo.find? fun x => x.tag = tag) = some y →
      ((∃ n m, y.bound = some n ∧ s.quay.move? n = some m ∧ (m.state = .lifting ∨ m.state = .faulted)) →
        exec (.truckExit f) s = s.next (a.refuseFrame .lane p RxKind.truckExit .hold)) ∧
      ((∀ n m, y.bound = some n → s.quay.move? n = some m → m.state ≠ .lifting ∧ m.state ≠ .faulted) →
        ∃ t, exec (.truckExit f) s = .next t ∧ t.quay.lanes.map Lane.tags = s.quay.lanes.map fun x =>
          if x.phys = p then (x.phys, (x.fifo.map (·.tag)).filter fun g => g ≠ tag) else x.tags) ∧
      (y.bound = none → exec (.truckExit f) s = s.next (a.removeTruck p tag)) ∧
      ∀ n m n', y.bound = some n → s.quay.move? n = some m → m.truck = some ⟨tag, n'⟩ →
        (m.state = .matched → exec (.truckExit f) s =
          s.next (((a.parted m tag).stageSteps m.crane m (some tag)).removeTruck p tag)) ∧
        (m.state = .permitted →
          let withdrawn := (((a.updCrane m.crane fun x => { x with accept := .stopped }).updMove n fun x =>
            { x with stamp := none, state := if m.isHatch then .staged else .matched }).sendUrgent .crane m.crane
              (.permitWithdraw (m.stamp.getD 0) .truck)).post
            { kind := .permitLapsed, subject := .move, number := n, detail := [2], stamp := m.stamp }
          exec (.truckExit f) s = s.next (((((((withdrawn.parted m tag).stageSteps m.crane m (some tag)).removeTruck p
            tag).takePending m.crane).applyStaging m.crane).judge m.crane))) ∧
        (m.state = .matched ∨ m.state = .permitted → s.quay.TruckLaw → ∃ t m', exec (.truckExit f) s = .next t ∧
          t.quay.move? n = some m' ∧ m'.fixed = m.fixed ∧ ∀ tr, m'.truck = some tr → tr.tag ≠ tag))) ∧
  (∀ (q : Quay) (p : Nat) (l : Lane) (tag : Word16), q.lane? p = some l →
    let rest := q.updLane p fun x => { x with fifo := x.fifo.filter fun y => y.tag ≠ tag }
    (l.fifo.head?.map (·.tag) = some tag ∧ (∃ y ∈ l.fifo, y.tag ≠ tag) → q.removeTruck p tag = rest.laneChanged p) ∧
    (l.fifo.head?.map (·.tag) ≠ some tag ∨ (∀ y ∈ l.fifo, y.tag = tag) → q.removeTruck p tag = rest)) ∧
  ∀ (s : State) (f : RxFrame) (n : Nat) (code : Byte), s.quay.hearsFrom .crane f n .crane →
    opsCode f.payload = some code →
    let a := s.quay.setAck .crane true
    (∀ m tr l, s.quay.currentMove? n = some m → m.isHatch = false →
        (m.state = .matched ∨ m.state = .permitted ∨ m.state = .lifting) → m.truck = some tr →
        s.quay.laneByLogical? tr.lane = some l →
      exec (.spot f) s = s.next (if (s.quay.station .lane l.phys).state = .online then
          a.sendRoutine .lane l.phys (.spotToGate code tr.lane tr.tag) else a)) ∧
    ((∀ m, s.quay.currentMove? n = some m → m.isHatch = true ∨ m.state = .staged) →
      exec (.spot f) s = s.next (a.refuseFrame .crane n RxKind.spot .noTruck))

/-- The obstruction qualifier (R100) and what an obstruction event and the window timer's expiry do to the lane (R101).
Where the lane goes to FAULTED, the permit of its bound truck's PERMITTED move is withdrawn with cause LANE, the move,
unless a pending preemption sets it aside (R62), MATCHED with the truck still bound; a LIFTING one is reported with
LANE_FAULT_IN_LIFT and stays as it is. An OBS row at the level the input already has makes no change (log entry 28). -/
def Obligations.Obstructions : Prop :=
  (∀ (s : State) (p : Nat),
    (s.quay.obsActive p = true → exec (.obsActivation p) s = .next s) ∧
    (s.quay.obsActive p = false → exec (.obsInactive p) s = .next s) ∧
    (s.quay.obsActive p = false → exec (.obsActivation p) s =
      s.next ((s.quay.updPins fun x => { x with obs := x.obs.set (p - 1) true }).updLane p fun l =>
        if l.qualifier = .idle then { l with qualifier := .timing, pulse := .running (s.quay.item Item.obsMin) }
        else l)) ∧
    (s.quay.obsActive p = true → exec (.obsInactive p) s =
      s.next ((s.quay.updPins fun x => { x with obs := x.obs.set (p - 1) false }).updLane p fun l =>
        if l.qualifier = .timing then { l with qualifier := .idle, pulse := .stopped } else l))) ∧
  ∀ (s : State) (p : Nat) (l : Lane), s.quay.lane? p = some l →
    (l.qualifier = .timing → l.pulse.isRunning = true →
      (l.state ≠ .opened → l.state ≠ .caution → exec (.pulseTimerExpiry p) s =
        s.next (s.quay.updLane p fun x => if x.qualifier = .timing then { x with qualifier := .idle, pulse := .stopped } else x)) ∧
      (l.state = .opened → ∃ t, exec (.pulseTimerExpiry p) s = .next t ∧
        t.quay.lanes.map Lane.course = s.quay.lanes.map (fun x =>
          if x.phys = p then (x.phys, .caution, x.lockout, .running (s.quay.item Item.obsWindow)) else x.course) ∧
        (∀ x ∈ t.quay.lanes, x.phys = p → x.qualifier = .idle) ∧
        (s.quay.post (Quay.laneCaution l)).events <+: t.quay.events) ∧
      (l.state = .caution → ∃ t, exec (.pulseTimerExpiry p) s = .next t ∧
        t.quay.lanes.map Lane.course = s.quay.lanes.map (fun x =>
          if x.phys = p then (x.phys, .faulted, x.lockout, .stopped) else x.course) ∧
        (∀ x ∈ t.quay.lanes, x.phys = p → x.qualifier = .idle) ∧
        (s.quay.post (Quay.laneFault l (l.fifo.head?.bind fun y => if y.bound.isSome then some y.tag else none))).events
          <+: t.quay.events ∧
        ∀ y k m, l.fifo.head? = some y → y.bound = some k → s.quay.move? k = some m → m.isHatch = false →
          m.truck = some ⟨y.tag, l.logical⟩ → s.quay.laneByLogical? l.logical = some l → s.quay.MovesOnce →
          s.quay.TruckLaw →
          (m.state = .permitted → s.quay.currentMove? m.crane = some m → s.quay.lapsed t.quay m.crane m .lane ∧
            ((s.quay.crane? m.crane).all (fun x => x.preempt = none) = true →
              t.quay.move? k = some { m with state := .matched, stamp := none } ∧
              (t.quay.lane? p).map (·.fifo) = some l.fifo)) ∧
          (m.state = .lifting → t.quay.move? k = some m ∧ (t.quay.lane? p).map (·.fifo) = some l.fifo ∧
            s.quay.reports t.quay
              { kind := .laneFaultInLift, subject := .lane, number := l.logical, detail := be16n k }))) ∧
    (l.state = .caution → l.window.isRunning = true → ∃ t, exec (.windowTimerExpiry p) s = .next t ∧
      t.quay.lanes.map Lane.course = s.quay.lanes.map fun x =>
        if x.phys = p then (x.phys, .opened, x.lockout, .stopped) else x.course)

/-! ## Lashing gangs -/

/-- LASH START (R122): every row of its table. Started, the gang is WORKING with task, bay and timer kept, and the bay
is UNLASHING or LASHING; LASH WAIT is a routine frame, dropped where no slot can be had (sendRoutine). -/
def Obligations.LashStartTable : Prop :=
  ∀ (s : State) (f : RxFrame) (src b : Nat) (g : Gang), s.quay.hearsFrom .crane f src .gang →
    ops8 f.payload = some b → s.quay.gang? (src - 16) = some g →
    let a := s.quay.setAck .crane true
    (g.state = .working → g.bay = some b → exec (.lashStart f) s = s.next a) ∧
    (g.state = .idle ∨ (g.state = .working ∧ g.bay ≠ some b) →
      exec (.lashStart f) s = s.next (a.refuseFrame .crane src RxKind.lashStart .gangState)) ∧
    (g.state = .ordered → g.bay ≠ some b →
      exec (.lashStart f) s = s.next (a.refuseFrame .crane src RxKind.lashStart .wrongBay)) ∧
    (g.state = .ordered → g.bay = some b →
      ((∃ m ∈ s.quay.moves, m.bay = b ∧ (m.state = .permitted ∨ m.state = .lifting)) →
        exec (.lashStart f) s = s.next (a.sendRoutine .crane src (.lashWait b))) ∧
      ((∀ m ∈ s.quay.moves, m.bay = b → m.state ≠ .permitted ∧ m.state ≠ .lifting) →
        ∀ task, g.task = some task → ∃ t, exec (.lashStart f) s = .next t ∧
          t.quay.gangs = (s.quay.gangs.map fun x => if x.num = src - 16 then { x with state := .working } else x) ∧
          t.quay.bays = s.quay.bays.map fun x => if x.num = b then { x with lash :=
            match task with
            | .unlash => .unlashing
            | .lash => .lashing } else x))

/-- LASH DONE (R124, R116, R117, R41) and LASH DECLINE (R125): the bay's new state, the gang's last bay and the
refusals. A bay that falls due by LASH DONE joins the tail of the dispatch list, and a dispatch is made, while the gang
is still WORKING (log entry 13); then the gang is IDLE, the bay its last, and the dispatch of R124 is made. The
declining gang is IDLE with its timer stopped and its last bay kept, and the bay stands at the head of the dispatch list
unless a gang was ordered to it (R120, R121). -/
def Obligations.LashDoneAndDecline : Prop :=
  ∀ (s : State) (f : RxFrame) (src b : Nat) (g : Gang), s.quay.hearsFrom .crane f src .gang →
    ops8 f.payload = some b → s.quay.gang? (src - 16) = some g →
    let a := s.quay.setAck .crane true
    (g.state = .idle → g.lastBay = b → exec (.lashDone f) s = s.next a) ∧
    (g.state = .working → g.bay ≠ some b →
      exec (.lashDone f) s = s.next (a.refuseFrame .crane src RxKind.lashDone .wrongBay)) ∧
    (g.state = .ordered ∨ (g.state = .idle ∧ g.lastBay ≠ b) →
      exec (.lashDone f) s = s.next (a.refuseFrame .crane src RxKind.lashDone .gangState)) ∧
    (g.state = .working → g.bay = some b → ∀ x, s.quay.bay? b = some x → x.lash = .unlashing ∨ x.lash = .lashing →
      ∃ t, exec (.lashDone f) s = .next t ∧
        t.quay.bays = (s.quay.bays.map fun y => if y.num = b then { y with lash := (
          if x.lash = .unlashing then
            (if s.quay.liveMoves b .deck = 0 ∧ 0 < x.deckCount then .lashDue else .opened)
          else if s.quay.liveMoves b .deck = 0 then .lashed else .unlashDue) } else y) ∧
        t.quay.gangs.map (fun y => (y.num, y.lastBay)) =
          (s.quay.gangs.map fun y => (y.num, if y.num = src - 16 then b else y.lastBay)) ∧
        (∀ y ∈ t.quay.gangs, y.num = src - 16 → y.state ≠ .working) ∧
        (let due : Prop := (x.lash = .unlashing ∧ s.quay.liveMoves b .deck = 0 ∧ 0 < x.deckCount) ∨
            (x.lash = .lashing ∧ s.quay.liveMoves b .deck ≠ 0)
         let finished (gs : List Gang) := gs.map fun y => if y.num = src - 16 then
            { y with state := .idle, task := none, bay := none, lastBay := b, timer := .stopped } else y
         (due → ∃ gs list, t.quay.Dispatched
              (s.quay.gangs.map fun y => if y.num = src - 16 then { y with timer := .stopped } else y)
              ((s.quay.dispatch.filter fun k => k ≠ b) ++ [b]) gs list ∧
            t.quay.Dispatched (finished gs) list t.quay.gangs t.quay.dispatch) ∧
         (¬ due → t.quay.Dispatched (finished s.quay.gangs) s.quay.dispatch t.quay.gangs t.quay.dispatch)) ∧
        (s.quay.post (if x.lash = .unlashing then Quay.bayOpen b else Quay.bayLashed b)).events <+: t.quay.events) ∧
    (g.state = .ordered → g.bay ≠ some b →
      exec (.lashDecline f) s = s.next (a.refuseFrame .crane src RxKind.lashDecline .wrongBay)) ∧
    (g.state ≠ .ordered →
      exec (.lashDecline f) s = s.next (a.refuseFrame .crane src RxKind.lashDecline .gangState)) ∧
    (g.state = .ordered → g.bay = some b → ∀ task, g.task = some task →
      ∃ t, exec (.lashDecline f) s = .next t ∧
        t.quay.givenBack (s.quay.gangs.map fun y => if y.num = src - 16 then
          { y with state := .idle, task := none, bay := none, timer := .stopped } else y) s.quay.dispatch b ∧
        t.quay.bays = s.quay.bays ∧ s.quay.pool <+: t.quay.pool ∧
        t.quay.events = (s.quay.post (Quay.lashDeclined (src - 16) b task)).events)

/-- GANG CLEAR (R129): BAD_GANG, GANG_STATE; the WORKING gang is sent LASH CANCEL where its station is ONLINE and is
IDLE with the bay as its last bay, and the bay is due again and stands at the head of the dispatch list unless a gang
was ordered to it (R120, R121). The lash timer (R126): an ORDERED gang is sent LASH CANCEL and is IDLE, its last bay
kept, LASH_OVERDUE is posted with ORDERED, and its bay is given back likewise; a WORKING gang is reported and works
on. A timer that does not run does not expire (log entry 9). -/
def Obligations.GangClearAndLashTimer : Prop :=
  (∀ (s : State) (record bytes : List Byte) (n : Nat), s.quay.takes record bytes → ops8 bytes = some n →
    (s.quay.gang? n = none →
      exec (.gangClear record) s = s.next (s.quay.refused record Code.gangClear .badGang)) ∧
    ∀ g, s.quay.gang? n = some g →
      (g.state ≠ .working →
        exec (.gangClear record) s = s.next (s.quay.refused record Code.gangClear .gangState)) ∧
      (∀ b task, g.state = .working → g.bay = some b → g.task = some task →
        ∃ t, exec (.gangClear record) s = .next t ∧ t.quay.answers Code.gangClear .ok [] ∧
          t.quay.bays = (s.quay.bays.map fun y => if y.num = b then { y with lash :=
            match task with
            | .unlash => .unlashDue
            | .lash => .lashDue } else y) ∧
          t.quay.givenBack (s.quay.gangs.map fun y => if y.num = n then
            { y with state := .idle, task := none, bay := none, lastBay := b, timer := .stopped } else y)
            s.quay.dispatch b ∧
          ∃ q : Quay, q = (if (s.quay.station .crane (16 + n)).state = .online then
              s.quay.sendRoutine .crane (16 + n) (.lashCancel task b) else s.quay) ∧
            q.pool <+: t.quay.pool ∧ t.quay.events = q.events)) ∧
  (∀ (s : State) (n : Nat), (∀ g, s.quay.gang? n = some g → g.timer.isRunning = false) →
    exec (.lashTimerExpiry n) s = .next s) ∧
  ∀ (s : State) (n b : Nat) (g : Gang), s.quay.gang? n = some g → g.timer.isRunning = true → g.bay = some b →
    (∀ task, g.state = .ordered → g.task = some task → ∃ t q, exec (.lashTimerExpiry n) s = .next t ∧
      q = s.quay.sendRoutine .crane (16 + n) (.lashCancel task b) ∧ q.pool <+: t.quay.pool ∧
      t.quay.events = (q.post
        { kind := .lashOverdue, subject := .gang, number := n, detail := [byte b, 0] }).events ∧
      t.quay.bays = s.quay.bays ∧
      t.quay.givenBack (s.quay.gangs.map fun y => if y.num = n then
        { y with state := .idle, task := none, bay := none, timer := .stopped } else y) s.quay.dispatch b) ∧
    (g.state = .working → exec (.lashTimerExpiry n) s =
      s.next ((s.quay.updGang n fun x => { x with timer := .stopped }).post (Quay.lashOverdue n b 1)))

/-! ## Quay stop -/

/-- A source joins the stop (R132 to R134): with none active it starts the stop, every enable off and saved, no
crane's current move PERMITTED, the lift timers of LIFTING moves and the gantry timers of cranes in POSITIONING held
(R135), QUAY STOP queued as an urgent frame to station 31 on each link that can carry it, with the source and the
clock, and QUAY_STOP posted; a source already active changes nothing; a further one only joins the set; the request
QUAY STOP is answered OK. A push or pop on the way writes the saved enable (R136). (That the crane link's broadcast
claims its slot first is the model's choice: log entry 40.) -/
def Obligations.StopStarts : Prop :=
  (∀ (c : Instr) (s : State) (src : Source), s.quay.brings c src →
    (s.quay.stop.sources = [] → ∃ t, exec c s = .next t ∧
      (∀ record, c = .quayStop record → t.quay.answers Code.quayStop .ok []) ∧
      t.quay.stop = ⟨[src], some src, some s.quay.clock⟩ ∧ t.quay.stopInForce = true ∧
      (∀ x ∈ t.quay.cranes, x.enable = false) ∧
      (∀ n m, t.quay.currentMove? n = some m → m.state ≠ .permitted) ∧
      (s.quay.craneNums.Nodup → (∀ x ∈ s.quay.cranes, x.preempt = none) →
        t.quay.cranes.map (fun x => (x.num, x.savedEnable)) = s.quay.cranes.map fun x => (x.num, x.enable)) ∧
      (s.quay.craneNums.Nodup → s.quay.MovesOnce →
        t.quay.cranes.map (fun x => (x.num, x.lift, x.gantry)) = s.quay.cranes.map fun x => (x.num,
          if (s.quay.currentMove? x.num).any (fun m => m.state = .lifting) = true then x.lift.hold else x.lift,
          if x.state = .positioning then x.gantry.hold else x.gantry)) ∧
      (s.quay.reports t.quay { kind := .quayStop, subject := .station, detail := [byte src.code], number :=
        match src with
        | .pin | .planner => 0
        | .crane n => n
        | .gang g => 16 + g }) ∧
      (∃ x : Quay, (∀ l, x.linkCarries l = s.quay.linkCarries l) ∧
        (s.quay.pool.filter fun f => f.msg.urgent) <+: (x.pool.filter fun f => f.msg.urgent) ∧
        ((∀ c m, s.quay.currentMove? c = some m → m.state ≠ .permitted) → x.pool = s.quay.pool) ∧
        t.quay.pool = ((x.sendUrgent .crane 31 (.quayStop src s.quay.clock)).sendUrgent .lane 31
          (.quayStop src s.quay.clock)).pool)) ∧
    (s.quay.stop.sources ≠ [] → ∃ t, exec c s = .next t ∧ t.quay.cranes = s.quay.cranes ∧
      (∀ record, c = .quayStop record → t.quay.answers Code.quayStop .ok []) ∧
      t.quay.moves = s.quay.moves ∧ t.quay.pool = s.quay.pool ∧ t.quay.events = s.quay.events ∧
      (src ∈ s.quay.stop.sources → t.quay.stop = s.quay.stop) ∧
      (src ∉ s.quay.stop.sources → t.quay.stop.first = s.quay.stop.first ∧
        t.quay.stop.start = s.quay.stop.start ∧ ∀ x, x ∈ t.quay.stop.sources ↔ x = src ∨ x ∈ s.quay.stop.sources))) ∧
  (∀ n : Nat, (Timer.running n).hold = .held n ∧ (Timer.held n).hold = .held n ∧ Timer.stopped.hold = .stopped) ∧
  ∀ s : State, s.quay.stage = .config ∨ s.quay.pins.qstopHigh = false →
    exec .qstopFall s = s.next (s.quay.updPins fun x => { x with qstopHigh := false })

/-- QUAY RESUME (R137, R133): NO_STOP without a stop, PIN_ACTIVE while QSTOP is low; accepted it empties the sources,
keeps the record's first source and start, gives every crane its saved enable, lets held timers run on, queues QUAY
RESUME as an urgent frame to station 31 on each link that can carry it (crane link first: log entry 40) and posts
QUAY_RESUME with the sources cleared. A rise of QSTOP lifts the bar and leaves the sources as they are. -/
def Obligations.QuayResumeEnds : Prop :=
  (∀ (s : State) (record bytes : List Byte), s.quay.takes record bytes →
    (s.quay.stop.sources = [] →
      exec (.quayResume record) s = s.next (s.quay.refused record Code.quayResume .noStop)) ∧
    (s.quay.stop.sources ≠ [] → s.quay.pins.qstopHigh = false →
      exec (.quayResume record) s = s.next (s.quay.refused record Code.quayResume .pinActive)) ∧
    (s.quay.stop.sources ≠ [] → s.quay.pins.qstopHigh = true → ∃ t, exec (.quayResume record) s = .next t ∧
      t.quay.answers Code.quayResume .ok [] ∧ t.quay.stop = { s.quay.stop with sources := [] } ∧
      t.quay.cranes.map (fun x => (x.num, x.enable, x.savedEnable, x.lift, x.gantry)) =
        s.quay.cranes.map (fun x => (x.num, x.savedEnable, x.savedEnable, x.lift.resume, x.gantry.resume)) ∧
      ((s.quay.sendUrgent .crane 31 .quayResume).sendUrgent .lane 31 .quayResume).pool <+: t.quay.pool ∧
      s.quay.reports t.quay
        { kind := .quayResume, subject := .port, number := 0, detail := sourceSet s.quay.stop.sources })) ∧
  (∀ s : State, exec .qstopRise s = s.next (s.quay.updPins fun x => { x with qstopHigh := true })) ∧
  ∀ n : Nat, (Timer.held n).resume = .running n ∧ (Timer.running n).resume = .running n ∧
    Timer.stopped.resume = .stopped

/-! ## Quay links -/

/-- The judgement of a frame (R140), JOIN among them, and of a station frame other than JOIN (R141, R168) for every row
that is one: a link that does not receive and a frame for another station leave no more than the acknowledgement slot; a
malformed frame costs a point; then NOT_JOINED, ROLE, and BAD_VALUE for a payload shorter than its kind is measured
against. -/
def Obligations.StationFramesJudged : Prop :=
  (∀ (c : Instr) (s : State) (l : Link) (f : RxFrame), c = .join l f ∨ (∃ k, stationRow c = some (l, k, f)) →
    (s.quay.linkCarries l = false → exec c s = s.next (s.quay.setAck l false)) ∧
    (s.quay.linkCarries l = true → stationNumber f.src = 0 ∨ stationNumber f.src = 31 ∨ 12 < f.payload.length →
      exec c s = s.next ((s.quay.setAck l false).addScore l 1)) ∧
    (s.quay.linkCarries l = true → stationNumber f.src ≠ 0 → stationNumber f.src ≠ 31 → f.payload.length ≤ 12 →
      stationNumber f.dest ≠ 0 → stationNumber f.dest ≠ 31 → exec c s = s.next (s.quay.setAck l false))) ∧
  ∀ (c : Instr) (s : State) (l : Link) (k : Nat) (f : RxFrame), stationRow c = some (l, k, f) →
    ∀ n, s.quay.hears l f n →
      ((s.quay.station l n).state ≠ .online →
        exec c s = s.next ((s.quay.setAck l true).refuseFrame l n k .notJoined)) ∧
      ((s.quay.station l n).state = .online →
        ((∀ r, (s.quay.station l n).role = some r → r.sends k = false) →
          exec c s = s.next ((s.quay.setAck l true).refuseFrame l n k .role)) ∧
        (∀ r, (s.quay.station l n).role = some r → r.sends k = true → f.payload.length < payloadLength k →
          exec c s = s.next ((s.quay.setAck l true).refuseFrame l n k .badValue)))

/-- JOIN (R142, R46, R47, R127, R168): a short payload (before the role: log entry 36) and a role that is not the
entry's are refused; a gate, a gang and a crane whose report R46 takes are ONLINE afterwards, the crane standing at
the reported bay, a gang that holds a task keeping it; STATION_JOIN is posted, JOIN ACK queued and, last, the stop
state (R138). The crane's PERMITTED current move is withdrawn with cause JOIN, and stays so where its enable is off; a
LIFTING one becomes FAULTED; without a fault mark the crane is IDLE or WORKING by the test of R44 (R47). R46 refuses a
bay or spreader mode that is none with BAD_VALUE, a crane without span whose bay the separation law bars, and a crane
with a span its bay lies outside of, with SPAN; the last sets the fault mark (as a crane fault: log entry 30).
Refused, an absent crane stays absent and an ONLINE one is OFFLINE with the effects of LEAVE, its travel ended where
the frame found it travelling (log entry 30). -/
def Obligations.JoinMakesOnline : Prop :=
  ∀ (s : State) (l : Link) (f : RxFrame) (n : Nat), s.quay.hears l f n →
    let a := s.quay.setAck l true
    (f.payload = [] → exec (.join l f) s = s.next (a.refuseFrame l n RxKind.join .badValue)) ∧
    ∀ r rest, f.payload = r :: rest →
      (Role.ofCode r.toNat = some .crane → rest.length < 2 →
        exec (.join l f) s = s.next (a.refuseFrame l n RxKind.join .badValue)) ∧
      ((Role.ofCode r.toNat = some .crane → 2 ≤ rest.length) →
        ((s.quay.station l n).role = none ∨ (s.quay.station l n).role ≠ Role.ofCode r.toNat →
          exec (.join l f) s = s.next ((a.refuseFrame l n RxKind.join .role).post (Quay.joinRefusedStation n))) ∧
        (∀ role, (s.quay.station l n).role = some role → Role.ofCode r.toNat = some role → role ≠ .crane →
          ∃ t, exec (.join l f) s = .next t ∧ (t.quay.station l n).state = .online ∧
            s.quay.joinTaken t.quay l n (s.quay.sendRoutine l n .joinAck) ∧ t.quay.lanes = s.quay.lanes ∧
            t.quay.cranes.map Crane.standing = s.quay.cranes.map Crane.standing ∧
            (role = .gang → (s.quay.gangs.map (·.num)).Nodup → ∀ g, s.quay.gang? (n - 16) = some g →
              g.state ≠ .idle → t.quay.gang? (n - 16) = some g)) ∧
        (l = .crane → (s.quay.station .crane n).role = some .crane → Role.ofCode r.toNat = some .crane →
          ∀ b mode more cr, rest = b :: mode :: more → s.quay.crane? n = some cr →
            (∀ why outside,
              ((s.quay.bay? b.toNat = none ∨ 2 < mode.toNat) ∧ why = .badValue ∧ outside = false) ∨
              ((s.quay.bay? b.toNat).isSome = true ∧ mode.toNat ≤ 2 ∧ cr.span = none ∧
                ¬ s.quay.spanFits n ⟨b.toNat, b.toNat⟩ ∧ why = .span ∧ outside = false) ∨
              ((s.quay.bay? b.toNat).isSome = true ∧ mode.toNat ≤ 2 ∧ (∃ sp, cr.span = some sp ∧
                (b.toNat < sp.low ∨ sp.high < b.toNat)) ∧ why = .span ∧ outside = true) →
              ((s.quay.station .crane n).state ≠ .online → exec (.join l f) s =
                s.next (if outside then ((a.refuseFrame l n RxKind.join why).post (Quay.joinRefusedCrane n why)).enterFault
                    n (Quay.craneFaultEvent n 1)
                  else (a.refuseFrame l n RxKind.join why).post (Quay.joinRefusedCrane n why))) ∧
              ((s.quay.station .crane n).state = .online → ∃ t x, exec (.join l f) s = .next t ∧
                (t.quay.station .crane n).state = .offline ∧ t.quay.crane? n = some x ∧ x.state = .offline ∧
                x.spreader = .unknown ∧ x.bay = cr.bay ∧ x.span = cr.span ∧
                (outside = true ∨ cr.faultMark = true → x.faultMark = true) ∧
                (cr.state = .positioning → x.gantry = .stopped ∧ x.target = none))) ∧
            ((s.quay.bay? b.toNat).isSome = true → mode.toNat ≤ 2 →
              (cr.span = none → s.quay.spanFits n ⟨b.toNat, b.toNat⟩) →
              (∀ sp, cr.span = some sp → sp.low ≤ b.toNat ∧ b.toNat ≤ sp.high) →
              ∃ t x, exec (.join l f) s = .next t ∧ (t.quay.station .crane n).state = .online ∧
                t.quay.crane? n = some x ∧ x.bay = some b.toNat ∧ x.span = some ⟨b.toNat, b.toNat⟩ ∧
                x.target = none ∧ x.gantry = .stopped ∧ some x.spreader = SpreaderMode.ofCode mode.toNat ∧
                (cr.faultMark = true → x.faultMark = true) ∧ (x.faultMark = true → x.state = .fault) ∧
                (x.faultMark = false → x.state = t.quay.restsAs n (some b.toNat)) ∧
                ((∀ m, s.quay.currentMove? n = some m → m.state ≠ .permitted) →
                  s.quay.joinTaken t.quay l n (s.quay.sendRoutine l n .joinAck)) ∧
                (∀ m, s.quay.currentMove? n = some m → m.state = .permitted →
                  s.quay.joinTaken t.quay l n ((s.quay.sendRoutine l n .joinAck).sendUrgent .crane n
                    (.permitWithdraw (m.stamp.getD 0) .join)) ∧
                  s.quay.reports t.quay { kind := .permitLapsed, subject := .move, number := m.num,
                                          detail := [4], stamp := m.stamp } ∧
                  (cr.enable = false → cr.active ≠ none → cr.preempt = none → t.quay.move? m.num =
                    some { m with stamp := none, state := if m.isHatch then .staged else .matched })) ∧
                (∀ m, s.quay.currentMove? n = some m → m.state = .lifting → s.quay.MovesOnce →
                  s.quay.wentFaulty t.quay n m 2))))

/-- LEAVE (R143, R48, R106, R128): the station is OFFLINE and STATION_LEAVE posted; a crane's context is OFFLINE with
spreader UNKNOWN where it stands, its travel ended; its PERMITTED current move is withdrawn with cause LEAVE and not
granted, its LIFTING one becomes FAULTED, another stays, unless a pending preemption sets it aside (R62); a gate's
lane keeps its trucks, a WORKING or IDLE gang stays as it is, an ORDERED gang is IDLE with its last bay kept and its
bay given back (R120, R121), no LASH CANCEL sent. -/
def Obligations.LeaveMakesOffline : Prop :=
  ∀ (s : State) (l : Link) (f : RxFrame) (n : Nat) (r : Role), s.quay.hearsFrom l f n r →
    ∃ t, exec (.leave l f) s = .next t ∧ (t.quay.station l n).state = .offline ∧
      (s.quay.post (Quay.stationLeave l n)).events <+: t.quay.events ∧
      t.quay.cranes.map Crane.standing = s.quay.cranes.map Crane.standing ∧
      (r = .crane → ∀ x ∈ t.quay.cranes, x.num = n → x.state = .offline ∧ x.spreader = .unknown) ∧
      (r = .gate → t.quay.lanes = s.quay.lanes) ∧
      (r = .gang → ∀ g, s.quay.gang? (n - 16) = some g → g.state = .working ∨ g.state = .idle →
        t.quay.gangs = s.quay.gangs) ∧
      (r = .gang → ∀ g b, s.quay.gang? (n - 16) = some g → g.state = .ordered → g.bay = some b →
        t.quay.givenBack (s.quay.gangs.map fun y => if y.num = n - 16 then
          { y with state := .idle, task := none, bay := none, timer := .stopped } else y) s.quay.dispatch b ∧
        t.quay.bays = s.quay.bays ∧ s.quay.pool <+: t.quay.pool ∧
        ∀ x ∈ t.quay.pool, x ∈ s.quay.pool ∨ ∃ task k, x.msg = .lashOrder task k) ∧
      (r = .crane → l = .crane →
        (∀ cr, s.quay.crane? n = some cr → cr.state = .positioning →
          ∀ x ∈ t.quay.cranes, x.num = n → x.gantry = .stopped ∧ x.target = none) ∧
        ∀ m, s.quay.currentMove? n = some m →
          (m.state = .permitted → s.quay.lapsed t.quay n m .leave ∧
            (∀ x ∈ t.quay.moves, x.num = m.num → x.state ≠ .permitted) ∧
            ((s.quay.crane? n).all (fun x => x.preempt = none) = true → t.quay.move? m.num =
              some { m with stamp := none, state := if m.isHatch then .staged else .matched })) ∧
          (m.state = .lifting → s.quay.wentFaulty t.quay n m 3) ∧
          (m.state ≠ .permitted → m.state ≠ .lifting → t.quay.moves = s.quay.moves))

/-- MALFORMED_FRAME and the fault score (R140, R144, R145): on a link that carries frames it adds a point; at 80 an
ACTIVE link is WARN and LINK_WARN posted; at 200 the link is silent and goes to REJOIN, its frames discarded, every
ONLINE station of it LOST, the quiet count 0, and LINK_SILENT posted with their number (R145). For the crane link (R49,
R128): each lost crane's context is OFFLINE with spreader UNKNOWN, its PERMITTED current move withdrawn with cause LINK
and without a frame, its LIFTING one LIFTING still with its timer; each ORDERED lost gang is IDLE with its last bay
kept. The premise of the stations' new states, that no number stands twice in the table, is part of StationLaw, which
every step keeps (ControlAndCountLawsKept). (Bytes that are no malformed frame have no effect: the model's choice, log
entry 26.) -/
def Obligations.FaultScore : Prop :=
  ∀ (s : State) (l : Link) (raw : List Byte),
    (s.quay.linkCarries l = false ∨ malformedOn l raw = false → exec (.malformedFrame l raw) s = .next s) ∧
    (s.quay.linkCarries l = true → malformedOn l raw = true → Quay.scoreFits (s.quay.link l) →
      ∃ t, exec (.malformedFrame l raw) s = .next t ∧ (t.quay.link l).ack = false ∧
        ((s.quay.link l).score + 1 < 200 → (t.quay.link l).score = (s.quay.link l).score + 1 ∧
          ((s.quay.link l).score + 1 < 80 → (t.quay.link l).state = (s.quay.link l).state ∧
            t.quay.events = s.quay.events) ∧
          (80 ≤ (s.quay.link l).score + 1 → (t.quay.link l).state = .warn ∧
            t.quay.events = (if (s.quay.link l).state = .active then
              s.quay.post (Quay.linkWarnEvent l ((s.quay.link l).score + 1)) else s.quay).events)) ∧
        (200 ≤ (s.quay.link l).score + 1 → (t.quay.link l).state = .rejoin ∧ (t.quay.link l).quiet = 0 ∧
          (∀ x ∈ t.quay.pool, x.link ≠ l) ∧ (∀ x ∈ (t.quay.link l).stations, x.state ≠ .online) ∧
          (((s.quay.link l).stations.map (·.num)).Nodup → (t.quay.link l).stations =
            (s.quay.link l).stations.map fun x => if x.state = .online then { x with state := .lost } else x) ∧
          s.quay.reports t.quay { kind := .linkSilent, subject := .link, number := linkNumber l, detail :=
            [byte ((s.quay.link l).stations.filter fun x => x.state = .online).length] } ∧
          (l = .crane → s.quay.MovesOnce → s.quay.craneNums.Nodup →
            ∀ n cr, (s.quay.station .crane n).state = .online → (s.quay.station .crane n).role = some .crane →
              s.quay.crane? n = some cr → ∃ x, t.quay.crane? n = some x ∧ x.state = .offline ∧ x.spreader = .unknown ∧
                x.lift = cr.lift ∧ (cr.state = .positioning → x.gantry = .stopped ∧ x.target = none) ∧
                ∀ m, s.quay.currentMove? n = some m →
                  (m.state = .permitted → (∀ y ∈ t.quay.moves, y.num = m.num → y.state ≠ .permitted) ∧
                    s.quay.reports t.quay { kind := .permitLapsed, subject := .move, number := m.num,
                                            detail := [7], stamp := m.stamp }) ∧
                  (m.state = .lifting → t.quay.move? m.num = some m)) ∧
          (l = .crane → (s.quay.gangs.map (·.num)).Nodup → (s.quay.craneLink.stations.map (·.num)).Nodup →
            (∀ x ∈ s.quay.craneLink.stations, x.role = some .gang → 16 < x.num) → t.quay.gangs = s.quay.gangs.map fun g =>
            if g.state = .ordered ∧ g.bay.isSome = true ∧ (s.quay.station .crane (16 + g.num)).state = .online ∧
                (s.quay.station .crane (16 + g.num)).role = some .gang then
              { g with state := .idle, task := none, bay := none, timer := .stopped } else g)))

/-- Transmission (R147, R144): ATTEMPT begins the front of the queue, urgent before routine, oldest first; DELIVERED
frees the slot and takes a point off; FAILED_ATTEMPT adds 8 and tries again (at once: log entry 18), or drops the
frame at the fourth failure. What a freed slot then lets in stands at the end of the pool (R150). (DELIVERED and
FAILED_ATTEMPT with nothing in transmission change nothing: the model's choice, log entry 28.) -/
def Obligations.Transmission : Prop :=
  ∀ (s : State) (l : Link),
    (s.quay.linkCarries l = false ∨ (s.quay.transmitting? l).isSome = true ∨ s.quay.queueOf l = [] →
      exec (.attempt l) s = .next s) ∧
    (s.quay.linkCarries l = true → s.quay.transmitting? l = none → ∀ f rest, s.quay.queueOf l = f :: rest →
      exec (.attempt l) s = s.next ((s.quay.setPool (Quay.updFirst (Quay.waitsOn l f.msg.urgent)
        (fun x => { x with begun := true }) s.quay.pool)).updLink l fun k => { k with out := f.wire }) ∧
      ((∃ x ∈ s.quay.pool, x.link = l ∧ x.msg.urgent = true) → f.msg.urgent = true) ∧
      (s.quay.pool.find? fun x => decide (x.link = l ∧ x.msg.urgent = f.msg.urgent)) = some f) ∧
    (s.quay.transmitting? l = none →
      exec (.delivered l) s = .next s ∧ exec (.failedAttempt l) s = .next s) ∧
    ∀ f, s.quay.transmitting? l = some f → s.quay.linkCarries l = true →
      (Quay.scoreFits (s.quay.link l) → ∃ t extra, exec (.delivered l) s = .next t ∧
        (t.quay.link l).score = (s.quay.link l).score - 1 ∧
        t.quay.pool = Quay.dropFirst (Quay.inTransmission l) s.quay.pool ++ extra ∧
        (t.quay.link l).state = (if (s.quay.link l).score - 1 < 64 then .active else (s.quay.link l).state)) ∧
      ((s.quay.link l).score + 8 < 200 → f.fails < 3 → ∃ t, exec (.failedAttempt l) s = .next t ∧
        (t.quay.link l).score = (s.quay.link l).score + 8 ∧ (t.quay.link l).out = f.wire ∧
        t.quay.pool = Quay.updFirst (Quay.inTransmission l) (fun x => { x with fails := f.fails + 1 }) s.quay.pool) ∧
      ((s.quay.link l).score + 8 < 200 → 3 ≤ f.fails → ∃ t extra, exec (.failedAttempt l) s = .next t ∧
        (t.quay.link l).score = (s.quay.link l).score + 8 ∧
        t.quay.pool = Quay.dropFirst (Quay.inTransmission l) s.quay.pool ++ extra ∧
        ((s.quay.link l).state = .active → (s.quay.link l).score + 8 < 80 →
          t.quay.events = (s.quay.post (frameDropped l .retries f.dest f.msg)).events)) ∧
      (200 ≤ (s.quay.link l).score + 8 → ∃ t, exec (.failedAttempt l) s = .next t ∧
        (t.quay.link l).state = .rejoin ∧ ∀ x ∈ t.quay.pool, x.link ≠ l)

/-- Quiet intervals and LINK HOLD (R146). The quiet count of a link in REJOIN grows until it reaches REJOIN_QUIET; then
the link is ACTIVE with score 0, unless its hold flag is set; clearing the flag lets it pass. How the two quiet rows
share the count is the model's choice (log entries 16 and 17). -/
def Obligations.QuietAndHold : Prop :=
  (∀ (s : State) (l : Link),
    ((s.quay.link l).state ≠ .rejoin ∨ (s.quay.link l).complete = true →
      exec (.quietInterval l) s = .next s ∧ exec (.quietCountComplete l) s = .next s) ∧
    ((s.quay.link l).state = .rejoin → (s.quay.link l).complete = false →
      ((s.quay.link l).quiet + 1 < s.quay.item Item.rejoinQuiet →
        exec (.quietInterval l) s = s.next (s.quay.updLink l fun k => { k with quiet := k.quiet + 1 })) ∧
      ∀ c ∈ [Instr.quietInterval l, .quietCountComplete l],
        (c = .quietInterval l → s.quay.item Item.rejoinQuiet ≤ (s.quay.link l).quiet + 1) →
        ∃ t, exec c s = .next t ∧ s.quay.item Item.rejoinQuiet ≤ (t.quay.link l).quiet ∧
          (t.quay.link l).complete = true ∧
          ((s.quay.link l).hold = true → (t.quay.link l).state = .rejoin ∧ t.quay.events = s.quay.events) ∧
          ((s.quay.link l).hold = false → (t.quay.link l).state = .active ∧ (t.quay.link l).score = 0 ∧
            t.quay.events = (s.quay.post (Quay.linkRejoinedEvent l)).events))) ∧
  ∀ (s : State) (record bytes : List Byte) (k v : Nat), s.quay.takes record bytes → ops8x2 bytes = some (k, v) →
    (linkOfNumber k = none ∨ 1 < v →
      exec (.linkHold record) s = s.next (s.quay.refused record Code.linkHold .badValue)) ∧
    ∀ l, linkOfNumber k = some l → v ≤ 1 →
      (v = 1 ∨ (s.quay.link l).state ≠ .rejoin ∨ (s.quay.link l).complete = false →
        exec (.linkHold record) s = s.next
          ((s.quay.updLink l fun x => { x with hold := decide (v = 1) }).replied record Code.linkHold .ok [])) ∧
      (v = 0 → (s.quay.link l).state = .rejoin → (s.quay.link l).complete = true →
        ∃ t, exec (.linkHold record) s = .next t ∧ t.quay.answers Code.linkHold .ok [] ∧
          (t.quay.link l).hold = false ∧ (t.quay.link l).state = .active ∧ (t.quay.link l).score = 0 ∧
          t.quay.events = (s.quay.post (Quay.linkRejoinedEvent l)).events)

/-! ## The port's selections, the status byte, the outputs, the clock -/

/-- REPLY, EVENTS and STATUS (R152, R153, R155, R156, R160). With `n` clocked bytes the host reads the status byte and
then the reply, the event records, nothing; a reply is not consumed, an event leaves with its last byte, emptying the
queue clears the overflow mark, a status byte once out clears the format error. READY rises before every byte, and
stays low after the last: a clock edge beyond it is a format error. The layouts of 12.3 say what the bytes are. (That
a whole selection ends the guard is log entry 20; how the model shows READY, log entry 5; that the index of the
failing byte counts the transfer code as byte 0, and so names the first byte beyond the last, log entry 19; the header
17h, 00h, FFh of TABLE READ's reply, log entry 22.) -/
def Obligations.PortReads : Prop :=
  (∀ (s : State) (body : List Byte) (n : Nat),
    body = (match s.quay.port.reply with | some r => s.quay.replyBytes r | none => []) →
    (n ≤ body.length + 1 → ∃ t, exec (.reply n) s = .next t ∧ t.quay.events = s.quay.events ∧
      t.quay.overflow = s.quay.overflow ∧ t.quay.port = { s.quay.port with
        guard := false, sdo := (s.quay.statusByte :: body).take n
        ready := if n ≤ body.length then n + 2 else n + 1 }) ∧
    (body.length + 1 < n → ∃ t, exec (.reply n) s = .next t ∧ t.quay.port = { s.quay.port with
        guard := true, formatError := true, sdo := s.quay.statusByte :: body, ready := body.length + 2 } ∧
      t.quay.events = (s.quay.post (Quay.portFormatEvent 2 (body.length + 2))).events)) ∧
  (∀ (s : State) (body : List Byte) (n : Nat), body = s.quay.events.flatMap Event.bytes →
    (n ≤ body.length + 1 → ∃ t, exec (.events n) s = .next t ∧ t.quay.port = { s.quay.port with
        guard := false, sdo := (s.quay.statusByte :: body).take n
        ready := if n ≤ body.length then n + 2 else n + 1 } ∧
      t.quay.events = s.quay.events.drop ((n - 1) / 16) ∧
      (t.quay.overflow = true ↔
        s.quay.overflow = true ∧ ¬ (s.quay.events ≠ [] ∧ 17 ≤ n ∧ s.quay.events.length ≤ (n - 1) / 16))) ∧
    (body.length + 1 < n → ∃ t, exec (.events n) s = .next t ∧ t.quay.port = { s.quay.port with
        guard := true, formatError := true, sdo := s.quay.statusByte :: body, ready := body.length + 2 } ∧
      t.quay.events = (({ s.quay with events := s.quay.events.drop (body.length / 16) } : Quay).post
        (Quay.portFormatEvent 3 (body.length + 2))).events)) ∧
  (∀ (s : State) (n : Nat),
    (n ≤ 1 → exec (.status n) s = s.next (s.quay.updPort fun x => { x with
      guard := false, sdo := [s.quay.statusByte].take n, ready := 2
      formatError := if 0 < n then false else x.formatError })) ∧
    (1 < n → ∃ t, exec (.status n) s = .next t ∧ t.quay.port = { s.quay.port with
        guard := true, formatError := true, sdo := [s.quay.statusByte], ready := 2 } ∧
      t.quay.events = (s.quay.post (Quay.portFormatEvent 4 2)).events)) ∧
  (∀ (q : Quay) (code first count : Nat) (why : Reason) (results : List Byte),
    q.replyBytes (.plain code why results) = [byte code, byte why.code, byte results.length] ++ results ∧
    (0 < first → q.replyBytes (.table .berth first count) = [0x17, 0x00, 0xFF] ++
      (q.bays.filter fun b => decide (first ≤ b.num ∧ b.num < first + count)).flatMap fun b => 17 :: q.bayRecord b)) ∧
  (∀ (q : Quay) (b : Bay) (claim : Option Nat) (m : Option Move),
    claim = (q.claim? b.num).map (·.num) → m = q.inFlightMove? b.num →
    q.bayRecord b =
      [byte b.num, byte b.deckCount, byte b.holdCount, byte b.deckCap, byte b.holdCap,
       byte ((if b.hatch = .off then 1 else 0) +
         2 * [Lash.lashed, .unlashDue, .unlashing, .opened, .lashDue, .lashing].idxOf b.lash),
       byte ((if claim.isSome then 1 else 0) + (if m.isSome then 2 else 0)), byte (claim.getD 0),
       byte (q.liveMoves b.num .deck / 256), byte (q.liveMoves b.num .deck),
       byte (q.liveMoves b.num .hold / 256), byte (q.liveMoves b.num .hold)] ++
      (match m with
       | none => [0, 0, 0, 0, 0]
       | some m => [byte (m.num / 256), byte m.num, byte (m.crane + (if m.state = .lifting then 8 else 0)),
           (m.stamp.getD 0).extractLsb' 8 8, (m.stamp.getD 0).extractLsb' 0 8])) ∧
  (∀ e : Event, e.detail.length ≤ 4 → e.bytes =
    [byte e.kind.index, byte e.level, e.clock.extractLsb' 24 8, e.clock.extractLsb' 16 8, e.clock.extractLsb' 8 8,
     e.clock.extractLsb' 0 8,
     byte ([Subject.crane, .bay, .lane, .gang, .move, .order, .station, .link, .port, .profile].idxOf e.subject),
     byte (e.number / 256), byte e.number, e.detail.getD 0 0, e.detail.getD 1 0, e.detail.getD 2 0, e.detail.getD 3 0,
     (if e.stamp.isSome then 1 else 0), (e.stamp.getD 0).extractLsb' 8 8, (e.stamp.getD 0).extractLsb' 0 8]) ∧
  ([EventKind.orderAccepted, .orderComplete, .holdPush, .holdPop, .stationJoin, .stationLeave, .bayOpen, .bayLashed,
    .gantryShort, .orderRefused, .orderStalled, .truckLate, .truckMisorder, .noLane, .laneCaution, .boxMismatch,
    .liftFailed, .permitLapsed, .lashOverdue, .lashDeclined, .holdStackFull, .joinRefused, .linkWarn, .frameDropped,
    .portFormat, .profileItem, .moveFault, .craneFault, .gantryOverdue, .laneFault, .laneFaultInLift, .quayStop,
    .linkSilent, .linkCongested, .profileFailed, .quayResume, .linkRejoined, .moveDone].map EventKind.index =
    List.range 38)

/-- PORT_FORMAT (R153, R154), at byte `i` of the selection: the given index, or, in a read, the first byte beyond the
last given where that comes earlier (log entry 19). The format error is set, PORT_FORMAT posted with the code and the
byte, the guard begins; what was written of a request is discarded, what was read before stands as read; READY rose
once for each byte begun with READY high. A REQUEST selection met while a request is in hand is passed over beyond its
code. GUARD_END ends the guard. The quay clock counts and wraps in RUN (R167). -/
def Obligations.FormatErrorsAndClock : Prop :=
  (∀ (s : State) (cause : FormatCause) (code : Byte) (index : Word16) (written : List Byte) (i : Nat),
    i = (if code = 2 then min index.toNat (s.quay.replyStream.length + 1)
      else if code = 3 then min index.toNat (s.quay.eventStream.length + 1)
      else if code = 4 then min index.toNat 2 else index.toNat) →
    (s.quay.port.inHand = true → code = 1 → index ≠ 0 →
      exec (.portFormat cause code index written) s = s.next (s.quay.updPort fun x => { x with ready := 1 })) ∧
    (s.quay.port.inHand = false ∨ code ≠ 1 ∨ index = 0 →
      ∃ t, exec (.portFormat cause code index written) s = .next t ∧
        t.quay.port.formatError = true ∧ t.quay.port.guard = true ∧ t.quay.port.inHand = s.quay.port.inHand ∧
        t.quay.port.reply = s.quay.port.reply ∧
        t.quay.events = (({ s.quay with
          events := if code = 3 then s.quay.events.drop ((i - 2) / 16) else s.quay.events } : Quay).post
            (Quay.portFormatEvent code i)).events ∧
        (cause = .badCode → t.quay.port.ready = 1) ∧ (cause = .earlyEdge → t.quay.port.ready = i) ∧
        (cause = .midByte → t.quay.port.ready =
          if (code = 2 ∧ s.quay.replyStream.length < i) ∨ (code = 3 ∧ s.quay.eventStream.length < i) ∨
            (code = 4 ∧ 1 < i) then i else i + 1))) ∧
  (∀ s : State, exec .guardEnd s = s.next (s.quay.updPort fun x => { x with guard := false })) ∧
  ∀ s : State,
    (s.quay.stage = .config → exec .quayClockTick s = .next s) ∧
    (s.quay.stage = .run → ∃ t, exec .quayClockTick s = .next t ∧ t.quay.clock = s.quay.clock + 1)

/-- The bits of the status byte (R156, 12.3). -/
def Obligations.StatusByteBits : Prop :=
  ∀ q : Quay,
    (q.statusByte.getLsbD 0 = q.port.reply.isSome) ∧ (q.statusByte.getLsbD 1 = q.port.inHand) ∧
    (q.statusByte.getLsbD 2 = true ↔ q.events ≠ []) ∧ (q.statusByte.getLsbD 3 = q.overflow) ∧
    (q.statusByte.getLsbD 4 = q.port.formatError) ∧ (q.statusByte.getLsbD 7 = false) ∧
    (q.statusByte.extractLsb' 5 2 =
      if q.loader.running = true then 0#2 else if q.stage = .config then 1#2 else 2#2)

/-- ATTN and ALERT (R161, R139): high exactly while the queue holds a record of level 2 or 3, and of level 3 or while a
stop is in force; both low after reset. -/
def Obligations.OutputPins : Prop :=
  (∀ q : Quay, q.EventLaw →
    (q.attn = true ↔ ∃ e ∈ q.events, e.level = 2 ∨ e.level = 3) ∧
    (q.alert = true ↔ (∃ e ∈ q.events, e.level = 3) ∨ q.stop.sources ≠ [])) ∧
  ∀ s : State, ∃ t, exec .reset s = .next t ∧ t.quay.attn = false ∧ t.quay.alert = false

/-! ## What the commands leave unchanged -/

/-- Start-up, profile and port commands change only the parts `Instr.touches` names. -/
def Obligations.PortFrame : Prop :=
  ∀ (c : Instr) (s t : State), c.family = .port → exec c s = .next t → SameBut c.touches s.quay t.quay

/-- Order and move requests change only the parts `Instr.touches` names. -/
def Obligations.OrderFrame : Prop :=
  ∀ (c : Instr) (s t : State), c.family = .orders → exec c s = .next t → SameBut c.touches s.quay t.quay

/-- Commands of berth, cranes and lifts change only the parts `Instr.touches` names. -/
def Obligations.CraneFrame : Prop :=
  ∀ (c : Instr) (s t : State), c.family = .cranes → c.wellFormed = true → exec c s = .next t →
    SameBut c.touches s.quay t.quay

/-- Commands of lanes and gangs change only the parts `Instr.touches` names. -/
def Obligations.LaneAndGangFrame : Prop :=
  ∀ (c : Instr) (s t : State), c.family = .lanesAndGangs → c.wellFormed = true → exec c s = .next t →
    SameBut c.touches s.quay t.quay

/-- Commands of the links and of the quay stop change only the parts `Instr.touches` names; DELIVERED where the links'
scores agree with their states (ControlAndCountLawsKept). -/
def Obligations.LinkAndStopFrame : Prop :=
  ∀ (c : Instr) (s t : State), c.family = .linksAndStop → c.wellFormed = true → s.quay.ScoreLaw →
    exec c s = .next t → SameBut c.touches s.quay t.quay

/-! ## Laws that every step keeps -/

/-- The pool holds at most 40 frames, at most 32 of them routine (R148). -/
def Obligations.PoolKept : Prop :=
  ∀ s t : State, s.quay.PoolLaw → step s = .next t → t.quay.PoolLaw

/-- The separation law of R45. -/
def Obligations.SpansKept : Prop :=
  ∀ s t : State, s.quay.SpanLaw → step s = .next t → t.quay.SpanLaw

/-- The law of R123: no bay has a WORKING gang and a move in flight. -/
def Obligations.GangsKept : Prop :=
  ∀ s t : State, s.quay.GangLaw → step s = .next t → t.quay.GangLaw

/-- A truck tag stands at most once across the FIFOs, no FIFO holds more than four trucks, and a bound truck is the head
of its lane's FIFO (R102, R103). -/
def Obligations.TrucksKept : Prop :=
  (∀ s t : State, s.quay.TruckLaw → step s = .next t → t.quay.TruckLaw) ∧
  ∀ s t : State, s.quay.TruckLaw → s.quay.HeadLaw → step s = .next t → t.quay.HeadLaw

/-- No hold stack exceeds three entries, and one with a preemption pending has room for it (R60, R61). While a stop is
in force no crane's current move is PERMITTED, and from a stop in force to a stop in force no move becomes PERMITTED
(R134). -/
def Obligations.StacksAndStopKept : Prop :=
  (∀ s t : State, s.quay.StackLaw → step s = .next t → t.quay.StackLaw) ∧
  (∀ s t : State, s.quay.StopLaw → step s = .next t → t.quay.StopLaw) ∧
  ∀ s t : State, s.quay.stopInForce = true → step s = .next t → t.quay.stopInForce = true →
    ∀ m ∈ t.quay.moves, m.state = .permitted → ∃ x ∈ s.quay.moves, x.num = m.num ∧ x.state = .permitted

/-- The Event Queue holds at most 32 records of levels 1 to 3, every profile item keeps a value of its range (R159,
R160, R162); each link's state agrees with its score (R144), no link stands in SILENT (R145); no JOIN is half done
between commands (log entry 10); each station table holds its 32 entries (R141). Counts stay within capacities and the
deck of a bay without hatch is empty (R2, R3): every command keeps it, LIFT DONE where the lifted moves fit their bays
as R11 judged; and between the judgement and the LIFT DONE a bay's counts, capacities and hatch do not change: no
command but LIFT DONE and those that make the plan anew changes them for a bay with a move in flight. -/
def Obligations.ControlAndCountLawsKept : Prop :=
  (∀ s t : State, s.quay.EventLaw → s.quay.ProfileLaw → step s = .next t → t.quay.EventLaw ∧ t.quay.ProfileLaw) ∧
  (∀ s t : State, s.quay.ScoreLaw → s.quay.BarLaw → step s = .next t → t.quay.ScoreLaw ∧ t.quay.BarLaw) ∧
  (∀ s t : State, s.quay.StationLaw → step s = .next t → t.quay.StationLaw) ∧
  (∀ s t : State, s.quay.CountLaw →
    (∀ f rest, s.pending = .liftDone f :: rest →
      ∀ m ∈ s.quay.moves, m.state = .lifting → ∀ b ∈ s.quay.bays, b.num = m.bay → b.fits m) →
    step s = .next t → t.quay.CountLaw) ∧
  ∀ (s t : State) (c : Instr) (rest : List Instr) (k : Nat), s.pending = c :: rest →
    (∀ f, c ≠ .liftDone f) → c ≠ .reset → (∀ r, c ≠ .profileRecord r) → (∀ r, c ≠ .attach r) →
    (∀ r, c ≠ .planReset r) → (∃ m ∈ s.quay.moves, m.inFlight = true ∧ m.bay = k) → step s = .next t →
    (t.quay.bay? k).map Bay.stow = (s.quay.bay? k).map Bay.stow

/-- Every law holds after reset. -/
def Obligations.LawsHoldAtReset : Prop :=
  Quay.reset.PoolLaw ∧ Quay.reset.SpanLaw ∧ Quay.reset.GangLaw ∧ Quay.reset.TruckLaw ∧ Quay.reset.StackLaw ∧
    Quay.reset.EventLaw ∧ Quay.reset.ProfileLaw ∧ Quay.reset.ScoreLaw ∧ Quay.reset.BarLaw ∧ Quay.reset.MovesOnce ∧
    Quay.reset.StopLaw ∧ Quay.reset.CountLaw ∧ Quay.reset.HeadLaw ∧ Quay.reset.StationLaw
end

