-- ==== Sys2Proof/Laws/Frame.lean ====
section
/-!
SUPPORT. What each shared operation may change, said once: `<operation>_keeps` carries "every part outside the list is
as in q" from a state to the state after the operation. Frames of meanings follow by applying these from the outside
in; no operation need be unfolded for them.
-/

namespace Sys2Proof.Machine

theorem SameBut.refl (l : List Part) (q : Quay) : SameBut l q q := by
  intro p _
  cases p <;> first | rfl | exact ⟨rfl, rfl⟩

theorem Part.same_trans {p : Part} {q t u : Quay} (h : p.same q t) (k : p.same t u) : p.same q u := by
  cases p <;> first | exact Eq.trans k h | exact ⟨k.1.trans h.1, k.2.trans h.2⟩

theorem SameBut.trans {l : List Part} {q t u : Quay} (h : SameBut l q t) (k : SameBut l t u) : SameBut l q u :=
  fun p hp => Part.same_trans (h p hp) (k p hp)

theorem SameBut.mono {l l' : List Part} {q t : Quay} (hl : l ⊆ l') (h : SameBut l q t) : SameBut l' q t :=
  fun p hp => h p fun hm => hp (hl hm)

theorem SameBut.step {l k : List Part} {q t u : Quay} (hl : k ⊆ l) (h : SameBut l q t) (hk : SameBut k t u) :
    SameBut l q u :=
  h.trans (hk.mono hl)

/-- Carrying a frame through a loop. -/
theorem forEach_keeps {α : Type} {l : List Part} {q : Quay} {f : α → Quay → Quay}
    (hf : ∀ x t, SameBut l q t → SameBut l q (f x t)) :
    ∀ (xs : List α) (t : Quay), SameBut l q t → SameBut l q (forEach f xs t) := by
  intro xs
  induction xs with
  | nil => exact fun t h => h
  | cons x xs ih => exact fun t h => ih (f x t) (hf x t h)

namespace Quay

variable {l : List Part} {q t : Quay}

/-! ## Writes of one part -/

theorem updCrane_standing (q : Quay) (c : Nat) (f : Crane → Crane) (hf : ∀ x, (f x).standing = x.standing) :
    (q.updCrane c f).cranes.map Crane.standing = q.cranes.map Crane.standing := by
  simp only [updCrane, List.map_map]
  congr 1
  funext x
  simp only [Function.comp]
  split
  · exact hf x
  · rfl

/-- A write of crane contexts that leaves the cranes standing where they stand. -/
theorem updCrane_keeps (hl : [.cranes] ⊆ l) {c : Nat} {f : Crane → Crane}
    (hf : ∀ x, (f x).standing = x.standing) (h : SameBut l q t) : SameBut l q (t.updCrane c f) := by
  refine h.step hl ?_
  intro p hp
  cases p <;> first
    | rfl
    | exact ⟨rfl, rfl⟩
    | exact updCrane_standing _ _ _ hf
    | exact absurd (by decide) hp

/-- A write of crane contexts that may move cranes. -/
theorem moveCrane_keeps (hl : [.cranes, .standing] ⊆ l) {c : Nat} {f : Crane → Crane} (h : SameBut l q t) :
    SameBut l q (t.updCrane c f) := by
  refine h.step hl ?_
  intro p hp
  cases p <;> first | rfl | exact ⟨rfl, rfl⟩ | exact absurd (by decide) hp

theorem updPins_keeps (hl : [.pins] ⊆ l) {f : Pins → Pins} (h : SameBut l q t) :
    SameBut l q (t.updPins f) := by
  refine h.step hl ?_
  intro p hp
  cases p <;> first | rfl | exact ⟨rfl, rfl⟩ | exact absurd (by decide) hp

theorem setProfile_keeps (hl : [.profile] ⊆ l) {p : List (Nat × Word16)} (h : SameBut l q t) :
    SameBut l q (t.setProfile p) := by
  refine h.step hl ?_
  intro p hp
  cases p <;> first | rfl | exact ⟨rfl, rfl⟩ | exact absurd (by decide) hp

theorem setItem_keeps (hl : [.profile] ⊆ l) {n : Nat} {v : Word16} (h : SameBut l q t) :
    SameBut l q (t.setItem n v) := by
  refine h.step hl ?_
  intro p hp
  cases p <;> first | rfl | exact ⟨rfl, rfl⟩ | exact absurd (by decide) hp

theorem setStage_keeps (hl : [.stage] ⊆ l) {x : Stage} (h : SameBut l q t) :
    SameBut l q (t.setStage x) := by
  refine h.step hl ?_
  intro p hp
  cases p <;> first | rfl | exact ⟨rfl, rfl⟩ | exact absurd (by decide) hp

theorem updLoader_keeps (hl : [.loader] ⊆ l) {f : Loader → Loader} (h : SameBut l q t) :
    SameBut l q (t.updLoader f) := by
  refine h.step hl ?_
  intro p hp
  cases p <;> first | rfl | exact ⟨rfl, rfl⟩ | exact absurd (by decide) hp

theorem setAssembly_keeps (hl : [.assembly] ⊆ l) {a : Option Assembly} (h : SameBut l q t) :
    SameBut l q (t.setAssembly a) := by
  refine h.step hl ?_
  intro p hp
  cases p <;> first | rfl | exact ⟨rfl, rfl⟩ | exact absurd (by decide) hp

theorem setFreeList_keeps (hl : [.freeList] ⊆ l) {x : List Nat} (h : SameBut l q t) :
    SameBut l q (t.setFreeList x) := by
  refine h.step hl ?_
  intro p hp
  cases p <;> first | rfl | exact ⟨rfl, rfl⟩ | exact absurd (by decide) hp

theorem setCounter_keeps (hl : [.grantCounter] ⊆ l) {w : Word16} (h : SameBut l q t) :
    SameBut l q (t.setCounter w) := by
  refine h.step hl ?_
  intro p hp
  cases p <;> first | rfl | exact ⟨rfl, rfl⟩ | exact absurd (by decide) hp

theorem setDispatch_keeps (hl : [.dispatch] ⊆ l) {x : List Nat} (h : SameBut l q t) :
    SameBut l q (t.setDispatch x) := by
  refine h.step hl ?_
  intro p hp
  cases p <;> first | rfl | exact ⟨rfl, rfl⟩ | exact absurd (by decide) hp

theorem setStop_keeps (hl : [.stop] ⊆ l) {r : StopRecord} (h : SameBut l q t) :
    SameBut l q (t.setStop r) := by
  refine h.step hl ?_
  intro p hp
  cases p <;> first | rfl | exact ⟨rfl, rfl⟩ | exact absurd (by decide) hp

theorem setPool_keeps (hl : [.pool] ⊆ l) {x : List TxFrame} (h : SameBut l q t) :
    SameBut l q (t.setPool x) := by
  refine h.step hl ?_
  intro p hp
  cases p <;> first | rfl | exact ⟨rfl, rfl⟩ | exact absurd (by decide) hp

theorem updPort_keeps (hl : [.port] ⊆ l) {f : Port → Port} (h : SameBut l q t) :
    SameBut l q (t.updPort f) := by
  refine h.step hl ?_
  intro p hp
  cases p <;> first | rfl | exact ⟨rfl, rfl⟩ | exact absurd (by decide) hp

theorem setBar_keeps (hl : [.grantBar] ⊆ l) {x : Option Nat} (h : SameBut l q t) :
    SameBut l q (t.setBar x) := by
  refine h.step hl ?_
  intro p hp
  cases p <;> first | rfl | exact ⟨rfl, rfl⟩ | exact absurd (by decide) hp

theorem updBay_keeps (hl : [.bays] ⊆ l) {b : Nat} {f : Bay → Bay} (h : SameBut l q t) :
    SameBut l q (t.updBay b f) := by
  refine h.step hl ?_
  intro p hp
  cases p <;> first | rfl | exact ⟨rfl, rfl⟩ | exact absurd (by decide) hp

theorem updOrder_keeps (hl : [.orders] ⊆ l) {n : Nat} {f : Order → Order} (h : SameBut l q t) :
    SameBut l q (t.updOrder n f) := by
  refine h.step hl ?_
  intro p hp
  cases p <;> first | rfl | exact ⟨rfl, rfl⟩ | exact absurd (by decide) hp

theorem addOrder_keeps (hl : [.orders] ⊆ l) {o : Order} (h : SameBut l q t) :
    SameBut l q (t.addOrder o) := by
  refine h.step hl ?_
  intro p hp
  cases p <;> first | rfl | exact ⟨rfl, rfl⟩ | exact absurd (by decide) hp

theorem dropOrder_keeps (hl : [.orders] ⊆ l) {n : Nat} (h : SameBut l q t) :
    SameBut l q (t.dropOrder n) := by
  refine h.step hl ?_
  intro p hp
  cases p <;> first | rfl | exact ⟨rfl, rfl⟩ | exact absurd (by decide) hp

theorem updMove_keeps (hl : [.moves] ⊆ l) {n : Nat} {f : Move → Move} (h : SameBut l q t) :
    SameBut l q (t.updMove n f) := by
  refine h.step hl ?_
  intro p hp
  cases p <;> first | rfl | exact ⟨rfl, rfl⟩ | exact absurd (by decide) hp

theorem addMove_keeps (hl : [.moves] ⊆ l) {m : Move} (h : SameBut l q t) :
    SameBut l q (t.addMove m) := by
  refine h.step hl ?_
  intro p hp
  cases p <;> first | rfl | exact ⟨rfl, rfl⟩ | exact absurd (by decide) hp

theorem freeMove_keeps (hl : [.moves, .freeList] ⊆ l) {n : Nat} (h : SameBut l q t) :
    SameBut l q (t.freeMove n) := by
  refine h.step hl ?_
  intro p hp
  cases p <;> first | rfl | exact ⟨rfl, rfl⟩ | exact absurd (by decide) hp

theorem updLane_keeps (hl : [.lanes] ⊆ l) {p : Nat} {f : Lane → Lane} (h : SameBut l q t) :
    SameBut l q (t.updLane p f) := by
  refine h.step hl ?_
  intro p hp
  cases p <;> first | rfl | exact ⟨rfl, rfl⟩ | exact absurd (by decide) hp

theorem updTruck_keeps (hl : [.lanes] ⊆ l) {g : Word16} {f : Truck → Truck} (h : SameBut l q t) :
    SameBut l q (t.updTruck g f) := by
  refine h.step hl ?_
  intro p hp
  cases p <;> first | rfl | exact ⟨rfl, rfl⟩ | exact absurd (by decide) hp

theorem updGang_keeps (hl : [.gangs] ⊆ l) {g : Nat} {f : Gang → Gang} (h : SameBut l q t) :
    SameBut l q (t.updGang g f) := by
  refine h.step hl ?_
  intro p hp
  cases p <;> first | rfl | exact ⟨rfl, rfl⟩ | exact absurd (by decide) hp

theorem post_keeps (hl : [.events] ⊆ l) {p : Posting} (h : SameBut l q t) :
    SameBut l q (t.post p) := by
  refine h.step hl ?_
  intro p hp
  cases p <;> first | rfl | exact ⟨rfl, rfl⟩ | exact absurd (by decide) hp

theorem enqueue_keeps (hl : [.pool] ⊆ l) {k : Link} {d : Nat} {m : TxMsg} (h : SameBut l q t) :
    SameBut l q (t.enqueue k d m) := by
  refine h.step hl ?_
  intro p hp
  cases p <;> first | rfl | exact ⟨rfl, rfl⟩ | exact absurd (by decide) hp

theorem countFree_keeps (hl : [.freeCount] ⊆ l) (h : SameBut l q t) :
    SameBut l q (t.countFree) := by
  refine h.step hl ?_
  intro p hp
  cases p <;> first | rfl | exact ⟨rfl, rfl⟩ | exact absurd (by decide) hp

theorem leaveList_keeps (hl : [.dispatch] ⊆ l) {b : Nat} (h : SameBut l q t) :
    SameBut l q (t.leaveList b) := by
  refine h.step hl ?_
  intro p hp
  cases p <;> first | rfl | exact ⟨rfl, rfl⟩ | exact absurd (by decide) hp

theorem joinTail_keeps (hl : [.dispatch] ⊆ l) {b : Nat} (h : SameBut l q t) :
    SameBut l q (t.joinTail b) := by
  refine h.step hl ?_
  intro p hp
  cases p <;> first | rfl | exact ⟨rfl, rfl⟩ | exact absurd (by decide) hp

theorem joinHead_keeps (hl : [.dispatch] ⊆ l) {b : Nat} (h : SameBut l q t) :
    SameBut l q (t.joinHead b) := by
  refine h.step hl ?_
  intro p hp
  cases p <;> first | rfl | exact ⟨rfl, rfl⟩ | exact absurd (by decide) hp

/-- A write of a link controller that leaves its station table. -/
theorem updLink_keeps (hl : [.craneLink, .laneLink] ⊆ l) {k : Link} {f : LinkCtl → LinkCtl}
    (hf : ∀ x, (f x).stations = x.stations) (h : SameBut l q t) : SameBut l q (t.updLink k f) := by
  refine h.step hl ?_
  intro p hp
  cases k <;> cases p <;> first
    | rfl
    | exact ⟨rfl, rfl⟩
    | exact ⟨hf _, rfl⟩
    | exact ⟨rfl, hf _⟩
    | exact absurd (by decide) hp

theorem updCraneLink_keeps (hl : [.craneLink] ⊆ l) {f : LinkCtl → LinkCtl}
    (hf : ∀ x, (f x).stations = x.stations) (h : SameBut l q t) : SameBut l q (t.updLink .crane f) := by
  refine h.step hl ?_
  intro p hp
  cases p <;> first | rfl | exact ⟨rfl, rfl⟩ | exact ⟨hf _, rfl⟩ | exact absurd (by decide) hp

theorem updLaneLink_keeps (hl : [.laneLink] ⊆ l) {f : LinkCtl → LinkCtl}
    (hf : ∀ x, (f x).stations = x.stations) (h : SameBut l q t) : SameBut l q (t.updLink .lane f) := by
  refine h.step hl ?_
  intro p hp
  cases p <;> first | rfl | exact ⟨rfl, rfl⟩ | exact ⟨rfl, hf _⟩ | exact absurd (by decide) hp

theorem setStation_keeps (hl : [.craneLink, .laneLink, .stations] ⊆ l) {k : Link} {n : Nat} {st : StationState}
    (h : SameBut l q t) : SameBut l q (t.setStation k n st) := by
  refine h.step hl ?_
  intro p hp
  cases k <;> cases p <;> first | rfl | exact ⟨rfl, rfl⟩ | exact absurd (by decide) hp

theorem takeRequest_keeps (hl : [.port] ⊆ l) {n : Nat} (h : SameBut l q t) : SameBut l q (t.takeRequest n) := by
  refine h.step hl ?_
  intro p hp
  cases p <;> first | rfl | exact ⟨rfl, rfl⟩ | exact absurd (by decide) hp

theorem passOver_keeps (hl : [.port] ⊆ l) (h : SameBut l q t) : SameBut l q t.passOver := by
  refine h.step hl ?_
  intro p hp
  cases p <;> first | rfl | exact ⟨rfl, rfl⟩ | exact absurd (by decide) hp

theorem place_keeps (hl : [.port] ⊆ l) {r : Reply} (h : SameBut l q t) : SameBut l q (t.place r) := by
  refine h.step hl ?_
  intro p hp
  cases p <;> first | rfl | exact ⟨rfl, rfl⟩ | exact absurd (by decide) hp

/-! ## Frames and the pool -/

theorem sendRoutine_keeps (hl : [.pool, .events] ⊆ l) {k : Link} {d : Nat} {m : TxMsg} (h : SameBut l q t) :
    SameBut l q (t.sendRoutine k d m) := by
  unfold sendRoutine
  try dsimp only
  repeat' first
    | with_reducible exact h
    | with_reducible exact List.Subset.trans (by decide) hl
    | with_reducible apply enqueue_keeps
    | with_reducible apply post_keeps
    | split

theorem sendUrgent_keeps (hl : [.pool, .events] ⊆ l) {k : Link} {d : Nat} {m : TxMsg} (h : SameBut l q t) :
    SameBut l q (t.sendUrgent k d m) := by
  unfold sendUrgent
  try dsimp only
  repeat' first
    | with_reducible exact h
    | with_reducible exact List.Subset.trans (by decide) hl
    | with_reducible apply enqueue_keeps
    | with_reducible apply post_keeps
    | with_reducible apply setPool_keeps
    | split

theorem sendCrane_keeps (hl : [.pool, .events] ⊆ l) {c : Nat} {m : TxMsg} (h : SameBut l q t) :
    SameBut l q (t.sendCrane c m) := by
  unfold sendCrane
  try dsimp only
  repeat' first
    | with_reducible exact h
    | with_reducible exact List.Subset.trans (by decide) hl
    | with_reducible apply sendRoutine_keeps
    | split

theorem refuseFrame_keeps (hl : [.pool, .events] ⊆ l) {k : Link} {n kd : Nat} {w : Reason} {b : Nat} (h : SameBut l q t) :
    SameBut l q (t.refuseFrame k n kd w b) := by
  unfold refuseFrame
  try dsimp only
  repeat' first
    | with_reducible exact h
    | with_reducible exact List.Subset.trans (by decide) hl
    | with_reducible apply sendRoutine_keeps

theorem broadcastUrgent_keeps (hl : [.pool, .events] ⊆ l) {m : TxMsg} (h : SameBut l q t) :
    SameBut l q (t.broadcastUrgent m) := by
  unfold broadcastUrgent
  try dsimp only
  repeat' first
    | with_reducible exact h
    | with_reducible exact List.Subset.trans (by decide) hl
    | with_reducible apply sendUrgent_keeps

theorem tellStopState_keeps (hl : [.pool, .events] ⊆ l) {k : Link} {n : Nat} (h : SameBut l q t) :
    SameBut l q (t.tellStopState k n) := by
  unfold tellStopState
  try dsimp only
  repeat' first
    | with_reducible exact h
    | with_reducible exact List.Subset.trans (by decide) hl
    | with_reducible apply sendUrgent_keeps
    | split

/-! ## Judgements and grants (R72 to R76) -/

theorem grant_keeps (hl : grantParts ⊆ l) {c : Nat} {m : Move} (h : SameBut l q t) :
    SameBut l q (t.grant c m) := by
  unfold grant
  try dsimp only
  repeat' first
    | with_reducible exact h
    | with_reducible exact List.Subset.trans (by decide) hl
    | with_reducible apply enqueue_keeps
    | with_reducible apply updCrane_keeps
    | with_reducible apply updMove_keeps
    | with_reducible apply setCounter_keeps
    | (intro x; rfl)

theorem judge_keeps (hl : grantParts ⊆ l) {c : Nat} (h : SameBut l q t) :
    SameBut l q (t.judge c) := by
  unfold judge
  try dsimp only
  repeat' first
    | with_reducible exact h
    | with_reducible exact List.Subset.trans (by decide) hl
    | with_reducible apply grant_keeps
    | split

theorem judgeAll_keeps (hl : grantParts ⊆ l) (h : SameBut l q t) :
    SameBut l q (t.judgeAll) := by
  unfold judgeAll
  try dsimp only
  repeat' first
    | with_reducible exact h
    | with_reducible exact List.Subset.trans (by decide) hl
    | (with_reducible apply forEach_keeps; intro x t h)
    | with_reducible apply judge_keeps

theorem judgeBay_keeps (hl : grantParts ⊆ l) {b : Nat} (h : SameBut l q t) :
    SameBut l q (t.judgeBay b) := by
  unfold judgeBay
  try dsimp only
  repeat' first
    | with_reducible exact h
    | with_reducible exact List.Subset.trans (by decide) hl
    | (with_reducible apply forEach_keeps; intro x t h)
    | with_reducible apply judge_keeps
    | split

theorem judgeLane_keeps (hl : grantParts ⊆ l) {p : Nat} (h : SameBut l q t) :
    SameBut l q (t.judgeLane p) := by
  unfold judgeLane
  try dsimp only
  repeat' first
    | with_reducible exact h
    | with_reducible exact List.Subset.trans (by decide) hl
    | with_reducible apply judge_keeps
    | split

/-! ## Calling, binding, staging (R67 to R71, R107 to R111) -/

theorem callTruck_keeps (hl : [.pool, .events] ⊆ l) {c : Nat} {m : Move} (h : SameBut l q t) :
    SameBut l q (t.callTruck c m) := by
  unfold callTruck
  try dsimp only
  repeat' first
    | with_reducible exact h
    | with_reducible exact List.Subset.trans (by decide) hl
    | with_reducible apply sendRoutine_keeps
    | with_reducible apply post_keeps
    | split

theorem bindTruck_keeps (hl : workParts ⊆ l) {c n : Nat} {a : Lane} {b : Truck} (h : SameBut l q t) :
    SameBut l q (t.bindTruck c n a b) := by
  unfold bindTruck
  try dsimp only
  repeat' first
    | with_reducible exact h
    | with_reducible exact List.Subset.trans (by decide) hl
    | with_reducible apply judge_keeps
    | with_reducible apply updCrane_keeps
    | with_reducible apply updMove_keeps
    | with_reducible apply updTruck_keeps
    | (intro x; rfl)

theorem reportMisorder_keeps (hl : workParts ⊆ l) {m : Move} {hs : List (Lane × Truck)} (h : SameBut l q t) :
    SameBut l q (t.reportMisorder m hs) := by
  unfold reportMisorder
  try dsimp only
  repeat' first
    | with_reducible exact h
    | with_reducible exact List.Subset.trans (by decide) hl
    | (with_reducible apply forEach_keeps; intro x t h)
    | with_reducible apply updTruck_keeps
    | with_reducible apply post_keeps
    | split

theorem evalBinding_keeps (hl : workParts ⊆ l) {c : Nat} {lv : Option Word16} (h : SameBut l q t) :
    SameBut l q (t.evalBinding c lv) := by
  unfold evalBinding
  try dsimp only
  repeat' first
    | with_reducible exact h
    | with_reducible exact List.Subset.trans (by decide) hl
    | with_reducible apply bindTruck_keeps
    | with_reducible apply updCrane_keeps
    | with_reducible apply updMove_keeps
    | with_reducible apply reportMisorder_keeps
    | (intro x; rfl)
    | split

theorem evalLane_keeps (hl : workParts ⊆ l) {p : Nat} (h : SameBut l q t) :
    SameBut l q (t.evalLane p) := by
  unfold evalLane
  try dsimp only
  repeat' first
    | with_reducible exact h
    | with_reducible exact List.Subset.trans (by decide) hl
    | with_reducible apply evalBinding_keeps
    | split

theorem laneChanged_keeps (hl : workParts ⊆ l) {p : Nat} (h : SameBut l q t) :
    SameBut l q (t.laneChanged p) := by
  unfold laneChanged
  try dsimp only
  repeat' first
    | with_reducible exact h
    | with_reducible exact List.Subset.trans (by decide) hl
    | with_reducible apply evalLane_keeps
    | with_reducible apply judgeLane_keeps

theorem stageSteps_keeps (hl : workParts ⊆ l) {c : Nat} {m : Move} {lv : Option Word16} (h : SameBut l q t) :
    SameBut l q (t.stageSteps c m lv) := by
  unfold stageSteps
  try dsimp only
  repeat' first
    | with_reducible exact h
    | with_reducible exact List.Subset.trans (by decide) hl
    | with_reducible apply judge_keeps
    | with_reducible apply evalBinding_keeps
    | with_reducible apply sendCrane_keeps
    | with_reducible apply updCrane_keeps
    | with_reducible apply callTruck_keeps
    | (intro x; rfl)
    | split

theorem applyStaging_keeps (hl : workParts ⊆ l) {c : Nat} (h : SameBut l q t) :
    SameBut l q (t.applyStaging c) := by
  unfold applyStaging
  try dsimp only
  repeat' first
    | with_reducible exact h
    | with_reducible exact List.Subset.trans (by decide) hl
    | with_reducible apply stageSteps_keeps
    | with_reducible apply updCrane_keeps
    | with_reducible apply updMove_keeps
    | (intro x; rfl)
    | split

theorem unbind_keeps (hl : [.moves, .lanes] ⊆ l) {m : Move} (h : SameBut l q t) :
    SameBut l q (t.unbind m) := by
  unfold unbind
  try dsimp only
  repeat' first
    | with_reducible exact h
    | with_reducible exact List.Subset.trans (by decide) hl
    | with_reducible apply updMove_keeps
    | with_reducible apply updTruck_keeps
    | split

theorem unbindAndRestage_keeps (hl : workParts ⊆ l) {m : Move} (h : SameBut l q t) :
    SameBut l q (t.unbindAndRestage m) := by
  unfold unbindAndRestage
  try dsimp only
  repeat' first
    | with_reducible exact h
    | with_reducible exact List.Subset.trans (by decide) hl
    | with_reducible apply stageSteps_keeps
    | with_reducible apply updMove_keeps
    | with_reducible apply unbind_keeps

theorem freeLaneMove_keeps (hl : workParts ⊆ l) {a : Lane} (h : SameBut l q t) :
    SameBut l q (t.freeLaneMove a) := by
  unfold freeLaneMove
  try dsimp only
  repeat' first
    | with_reducible exact h
    | with_reducible exact List.Subset.trans (by decide) hl
    | with_reducible apply unbindAndRestage_keeps
    | split

/-! ## Lashing (R116 to R121) -/

theorem orderGang_keeps (hl : [.gangs, .dispatch, .pool] ⊆ l) {g b : Nat} {k : LashTask} (h : SameBut l q t) :
    SameBut l q (t.orderGang g b k) := by
  unfold orderGang
  try dsimp only
  repeat' first
    | with_reducible exact h
    | with_reducible exact List.Subset.trans (by decide) hl
    | with_reducible apply leaveList_keeps
    | with_reducible apply updGang_keeps
    | with_reducible apply enqueue_keeps

theorem dispatchLoop_keeps (hl : [.gangs, .dispatch, .pool] ⊆ l) :
    ∀ (n : Nat) (t : Quay), SameBut l q t → SameBut l q (dispatchLoop n t) := by
  intro n
  induction n with
  | zero => exact fun t h => h
  | succ n ih =>
    intro t h
    unfold dispatchLoop
    repeat' first
      | with_reducible exact h
      | with_reducible exact hl
      | with_reducible apply ih
      | with_reducible apply orderGang_keeps
      | split

theorem makeDispatch_keeps (hl : [.gangs, .dispatch, .pool] ⊆ l) (h : SameBut l q t) : SameBut l q t.makeDispatch := by
  unfold makeDispatch
  exact dispatchLoop_keeps hl _ t h

theorem setLash_keeps (hl : [.bays] ⊆ l) {b : Nat} {s : Lash} (h : SameBut l q t) :
    SameBut l q (t.setLash b s) := by
  unfold setLash
  try dsimp only
  repeat' first
    | with_reducible exact h
    | with_reducible exact List.Subset.trans (by decide) hl
    | with_reducible apply updBay_keeps

theorem fallDue_keeps (hl : ([.bays, .gangs, .dispatch] ++ grantParts) ⊆ l) {b : Nat} {s : Lash} (h : SameBut l q t) :
    SameBut l q (t.fallDue b s) := by
  unfold fallDue
  try dsimp only
  repeat' first
    | with_reducible exact h
    | with_reducible exact List.Subset.trans (by decide) hl
    | with_reducible apply judgeBay_keeps
    | with_reducible apply makeDispatch_keeps
    | with_reducible apply joinTail_keeps
    | with_reducible apply setLash_keeps

theorem unlashTrigger_keeps (hl : ([.bays, .gangs, .dispatch] ++ grantParts) ⊆ l) {b : Nat} (h : SameBut l q t) :
    SameBut l q (t.unlashTrigger b) := by
  unfold unlashTrigger
  try dsimp only
  repeat' first
    | with_reducible exact h
    | with_reducible exact List.Subset.trans (by decide) hl
    | with_reducible apply fallDue_keeps
    | split

theorem gangToIdle_keeps (hl : [.gangs] ⊆ l) {g : Nat} {k : Option Nat} (h : SameBut l q t) :
    SameBut l q (t.gangToIdle g k) := by
  unfold gangToIdle
  try dsimp only
  repeat' first
    | with_reducible exact h
    | with_reducible exact List.Subset.trans (by decide) hl
    | with_reducible apply updGang_keeps

theorem sendLashCancel_keeps (hl : [.pool, .events] ⊆ l) {g : Gang} (h : SameBut l q t) :
    SameBut l q (t.sendLashCancel g) := by
  unfold sendLashCancel
  try dsimp only
  repeat' first
    | with_reducible exact h
    | with_reducible exact List.Subset.trans (by decide) hl
    | with_reducible apply sendRoutine_keeps
    | split

theorem unlashingGone_keeps (hl : ([.bays, .gangs, .dispatch, .events] ++ grantParts) ⊆ l) {b : Nat} (h : SameBut l q t) :
    SameBut l q (t.unlashingGone b) := by
  unfold unlashingGone
  try dsimp only
  repeat' first
    | with_reducible exact h
    | with_reducible exact List.Subset.trans (by decide) hl
    | with_reducible apply judgeBay_keeps
    | with_reducible apply makeDispatch_keeps
    | with_reducible apply gangToIdle_keeps
    | with_reducible apply sendLashCancel_keeps
    | with_reducible apply leaveList_keeps
    | with_reducible apply setLash_keeps
    | split

theorem endOfDeckWork_keeps (hl : ([.bays, .gangs, .dispatch, .events] ++ grantParts) ⊆ l) {b n : Nat} (h : SameBut l q t) :
    SameBut l q (t.endOfDeckWork b n) := by
  unfold endOfDeckWork
  try dsimp only
  repeat' first
    | with_reducible exact h
    | with_reducible exact List.Subset.trans (by decide) hl
    | with_reducible apply fallDue_keeps
    | with_reducible apply unlashingGone_keeps
    | split

theorem coneFailure_keeps (hl : ([.bays, .gangs, .dispatch] ++ grantParts) ⊆ l) {b : Nat} (h : SameBut l q t) :
    SameBut l q (t.coneFailure b) := by
  unfold coneFailure
  try dsimp only
  repeat' first
    | with_reducible exact h
    | with_reducible exact List.Subset.trans (by decide) hl
    | with_reducible apply fallDue_keeps
    | split

theorem giveBack_keeps (hl : [.gangs, .dispatch, .pool] ⊆ l) {b : Nat} (h : SameBut l q t) :
    SameBut l q (t.giveBack b) := by
  unfold giveBack
  try dsimp only
  repeat' first
    | with_reducible exact h
    | with_reducible exact List.Subset.trans (by decide) hl
    | with_reducible apply makeDispatch_keeps
    | with_reducible apply joinHead_keeps

theorem freedSlots_keeps (hl : ([.gangs, .dispatch, .freeCount] ++ grantParts) ⊆ l) (h : SameBut l q t) :
    SameBut l q (t.freedSlots) := by
  unfold freedSlots
  try dsimp only
  repeat' first
    | with_reducible exact h
    | with_reducible exact List.Subset.trans (by decide) hl
    | with_reducible apply judgeAll_keeps
    | with_reducible apply makeDispatch_keeps
    | with_reducible apply countFree_keeps
    | split

/-! ## Orders and the hold stack (R35, R63, R64) -/

theorem takeUp_keeps (hl : grantParts ⊆ l) {c : Nat} (h : SameBut l q t) :
    SameBut l q (t.takeUp c) := by
  unfold takeUp
  try dsimp only
  repeat' first
    | with_reducible exact h
    | with_reducible exact List.Subset.trans (by decide) hl
    | with_reducible apply judge_keeps
    | with_reducible apply updCrane_keeps
    | (intro x; rfl)

theorem settle_keeps (hl : grantParts ⊆ l) {c : Nat} (h : SameBut l q t) :
    SameBut l q (t.settle c) := by
  unfold settle
  try dsimp only
  repeat' first
    | with_reducible exact h
    | with_reducible exact List.Subset.trans (by decide) hl
    | with_reducible apply takeUp_keeps
    | split

theorem workNotice_keeps (hl : [.pool, .events] ⊆ l) {c n : Nat} (h : SameBut l q t) :
    SameBut l q (t.workNotice c n) := by
  unfold workNotice
  try dsimp only
  repeat' first
    | with_reducible exact h
    | with_reducible exact List.Subset.trans (by decide) hl
    | with_reducible apply sendCrane_keeps
    | split

theorem writeEnable_keeps (hl : grantParts ⊆ l) {c : Nat} {v : Bool} (h : SameBut l q t) :
    SameBut l q (t.writeEnable c v) := by
  unfold writeEnable
  try dsimp only
  repeat' first
    | with_reducible exact h
    | with_reducible exact List.Subset.trans (by decide) hl
    | with_reducible apply judge_keeps
    | with_reducible apply updCrane_keeps
    | (intro x; rfl)
    | split

theorem stallCheck_keeps (hl : [.orders, .events] ⊆ l) {n : Nat} (h : SameBut l q t) :
    SameBut l q (t.stallCheck n) := by
  unfold stallCheck
  try dsimp only
  repeat' first
    | with_reducible exact h
    | with_reducible exact List.Subset.trans (by decide) hl
    | with_reducible apply updOrder_keeps
    | with_reducible apply post_keeps
    | split

theorem activate_keeps (hl : ([.orders, .events] ++ grantParts) ⊆ l) {c n : Nat} (h : SameBut l q t) :
    SameBut l q (t.activate c n) := by
  unfold activate
  try dsimp only
  repeat' first
    | with_reducible exact h
    | with_reducible exact List.Subset.trans (by decide) hl
    | with_reducible apply stallCheck_keeps
    | with_reducible apply settle_keeps
    | with_reducible apply workNotice_keeps
    | with_reducible apply updCrane_keeps
    | with_reducible apply updOrder_keeps
    | (intro x; rfl)

theorem setAsideCurrent_keeps (hl : [.moves, .lanes, .cranes] ⊆ l) {c : Nat} (h : SameBut l q t) :
    SameBut l q (t.setAsideCurrent c) := by
  unfold setAsideCurrent
  try dsimp only
  repeat' first
    | with_reducible exact h
    | with_reducible exact List.Subset.trans (by decide) hl
    | with_reducible apply updCrane_keeps
    | with_reducible apply updMove_keeps
    | with_reducible apply unbind_keeps
    | (intro x; rfl)
    | split

theorem push_keeps (hl : orderParts ⊆ l) {c n : Nat} (h : SameBut l q t) :
    SameBut l q (t.push c n) := by
  unfold push
  try dsimp only
  repeat' first
    | with_reducible exact h
    | with_reducible exact List.Subset.trans (by decide) hl
    | with_reducible apply stallCheck_keeps
    | with_reducible apply settle_keeps
    | with_reducible apply post_keeps
    | with_reducible apply workNotice_keeps
    | with_reducible apply updCrane_keeps
    | with_reducible apply updOrder_keeps
    | with_reducible apply writeEnable_keeps
    | with_reducible apply setAsideCurrent_keeps
    | (intro x; rfl)
    | split

theorem popEntry_keeps (hl : ([.orders, .events] ++ grantParts) ⊆ l) {c : Nat} {e : StackEntry} (h : SameBut l q t) :
    SameBut l q (t.popEntry c e) := by
  unfold popEntry
  try dsimp only
  repeat' first
    | with_reducible exact h
    | with_reducible exact List.Subset.trans (by decide) hl
    | with_reducible apply stallCheck_keeps
    | with_reducible apply settle_keeps
    | with_reducible apply post_keeps
    | with_reducible apply workNotice_keeps
    | with_reducible apply sendCrane_keeps
    | with_reducible apply writeEnable_keeps
    | with_reducible apply updCrane_keeps
    | with_reducible apply updOrder_keeps
    | (intro x; rfl)
    | split

theorem chooseActive_keeps (hl : ([.orders, .events] ++ grantParts) ⊆ l) {c : Nat} (h : SameBut l q t) :
    SameBut l q (t.chooseActive c) := by
  unfold chooseActive
  try dsimp only
  repeat' first
    | with_reducible exact h
    | with_reducible exact List.Subset.trans (by decide) hl
    | with_reducible apply activate_keeps
    | with_reducible apply popEntry_keeps
    | with_reducible apply settle_keeps
    | with_reducible apply updCrane_keeps
    | (intro x; rfl)
    | split

theorem takePending_keeps (hl : orderParts ⊆ l) {c : Nat} (h : SameBut l q t) :
    SameBut l q (t.takePending c) := by
  unfold takePending
  try dsimp only
  repeat' first
    | with_reducible exact h
    | with_reducible exact List.Subset.trans (by decide) hl
    | with_reducible apply push_keeps
    | split

/-! ## The end of a move (R14, R36, R112) -/

theorem berthEnd_keeps (hl : ([.bays, .gangs, .dispatch, .events, .freeList] ++ grantParts) ⊆ l) {m : Move} {d : Bool} (h : SameBut l q t) :
    SameBut l q (t.berthEnd m d) := by
  unfold berthEnd
  try dsimp only
  repeat' first
    | with_reducible exact h
    | with_reducible exact List.Subset.trans (by decide) hl
    | with_reducible apply endOfDeckWork_keeps
    | with_reducible apply judgeBay_keeps
    | with_reducible apply freeMove_keeps
    | with_reducible apply updBay_keeps
    | split

theorem orderLeaves_keeps (hl : ([.orders, .events] ++ grantParts) ⊆ l) {o : Order} (h : SameBut l q t) :
    SameBut l q (t.orderLeaves o) := by
  unfold orderLeaves
  try dsimp only
  repeat' first
    | with_reducible exact h
    | with_reducible exact List.Subset.trans (by decide) hl
    | with_reducible apply chooseActive_keeps
    | with_reducible apply updCrane_keeps
    | with_reducible apply post_keeps
    | with_reducible apply dropOrder_keeps
    | (intro x; rfl)
    | split

theorem countEnd_keeps (hl : ([.orders, .events] ++ grantParts) ⊆ l) {n : Nat} {d : Bool} (h : SameBut l q t) :
    SameBut l q (t.countEnd n d) := by
  unfold countEnd
  try dsimp only
  repeat' first
    | with_reducible exact h
    | with_reducible exact List.Subset.trans (by decide) hl
    | with_reducible apply orderLeaves_keeps
    | with_reducible apply updOrder_keeps
    | split

theorem moveEnds_keeps (hl : ([.bays, .gangs, .dispatch, .events, .freeList, .orders] ++ grantParts) ⊆ l) {m : Move} {d : Bool} (h : SameBut l q t) :
    SameBut l q (t.moveEnds m d) := by
  unfold moveEnds
  try dsimp only
  repeat' first
    | with_reducible exact h
    | with_reducible exact List.Subset.trans (by decide) hl
    | with_reducible apply countEnd_keeps
    | with_reducible apply berthEnd_keeps

theorem moveEndsChecked_keeps (hl : ([.bays, .gangs, .dispatch, .events, .freeList, .orders] ++ grantParts) ⊆ l) {m : Move} {d : Bool} (h : SameBut l q t) :
    SameBut l q (t.moveEndsChecked m d) := by
  unfold moveEndsChecked
  try dsimp only
  repeat' first
    | with_reducible exact h
    | with_reducible exact List.Subset.trans (by decide) hl
    | with_reducible apply stallCheck_keeps
    | with_reducible apply moveEnds_keeps

theorem afterMove_keeps (hl : orderParts ⊆ l) {c : Nat} (h : SameBut l q t) :
    SameBut l q (t.afterMove c) := by
  unfold afterMove
  try dsimp only
  repeat' first
    | with_reducible exact h
    | with_reducible exact List.Subset.trans (by decide) hl
    | with_reducible apply applyStaging_keeps
    | with_reducible apply takePending_keeps

theorem removeTruck_keeps (hl : workParts ⊆ l) {p : Nat} {g : Word16} (h : SameBut l q t) :
    SameBut l q (t.removeTruck p g) := by
  unfold removeTruck
  try dsimp only
  repeat' first
    | with_reducible exact h
    | with_reducible exact List.Subset.trans (by decide) hl
    | with_reducible apply laneChanged_keeps
    | with_reducible apply updLane_keeps
    | split

theorem releaseTruck_keeps (hl : workParts ⊆ l) {m : Move} {d : LoadState} {b p : Option Word32} (h : SameBut l q t) :
    SameBut l q (t.releaseTruck m d b p) := by
  unfold releaseTruck
  try dsimp only
  repeat' first
    | with_reducible exact h
    | with_reducible exact List.Subset.trans (by decide) hl
    | with_reducible apply removeTruck_keeps
    | with_reducible apply updMove_keeps
    | with_reducible apply sendUrgent_keeps
    | split

theorem releaseDone_keeps (hl : workParts ⊆ l) {m : Move} {b p : Option Word32} (h : SameBut l q t) :
    SameBut l q (t.releaseDone m b p) := by
  unfold releaseDone
  try dsimp only
  repeat' first
    | with_reducible exact h
    | with_reducible exact List.Subset.trans (by decide) hl
    | with_reducible apply releaseTruck_keeps
    | split

theorem releaseCancelled_keeps (hl : workParts ⊆ l) {m : Move} (h : SameBut l q t) :
    SameBut l q (t.releaseCancelled m) := by
  unfold releaseCancelled
  try dsimp only
  repeat' first
    | with_reducible exact h
    | with_reducible exact List.Subset.trans (by decide) hl
    | with_reducible apply releaseTruck_keeps
    | split

/-! ## Withdrawal and faults (R55, R77, R87) -/

theorem withdrawCore_keeps (hl : [.cranes, .moves, .pool, .events] ⊆ l) {c : Nat} {m : Move} {w : Lapse} (h : SameBut l q t) :
    SameBut l q (t.withdrawCore c m w) := by
  unfold withdrawCore
  try dsimp only
  repeat' first
    | with_reducible exact h
    | with_reducible exact List.Subset.trans (by decide) hl
    | with_reducible apply post_keeps
    | with_reducible apply sendUrgent_keeps
    | with_reducible apply updMove_keeps
    | with_reducible apply updCrane_keeps
    | (intro x; rfl)
    | split

theorem afterWithdraw_keeps (hl : orderParts ⊆ l) {c : Nat} (h : SameBut l q t) :
    SameBut l q (t.afterWithdraw c) := by
  unfold afterWithdraw
  try dsimp only
  repeat' first
    | with_reducible exact h
    | with_reducible exact List.Subset.trans (by decide) hl
    | with_reducible apply judge_keeps
    | with_reducible apply afterMove_keeps

theorem withdraw_keeps (hl : orderParts ⊆ l) {c : Nat} {w : Lapse} (h : SameBut l q t) :
    SameBut l q (t.withdraw c w) := by
  unfold withdraw
  try dsimp only
  repeat' first
    | with_reducible exact h
    | with_reducible exact List.Subset.trans (by decide) hl
    | with_reducible apply afterWithdraw_keeps
    | with_reducible apply withdrawCore_keeps
    | split

theorem enterFault_keeps (hl : orderParts ⊆ l) {c : Nat} {p : Posting} (h : SameBut l q t) :
    SameBut l q (t.enterFault c p) := by
  unfold enterFault
  try dsimp only
  repeat' first
    | with_reducible exact h
    | with_reducible exact List.Subset.trans (by decide) hl
    | with_reducible apply withdraw_keeps
    | with_reducible apply post_keeps
    | with_reducible apply updCrane_keeps
    | (intro x; rfl)

theorem moveFaulted_keeps (hl : orderParts ⊆ l) {c : Nat} {m : Move} {w : FaultCause} (h : SameBut l q t) :
    SameBut l q (t.moveFaulted c m w) := by
  unfold moveFaulted
  try dsimp only
  repeat' first
    | with_reducible exact h
    | with_reducible exact List.Subset.trans (by decide) hl
    | with_reducible apply enterFault_keeps
    | with_reducible apply post_keeps
    | with_reducible apply updMove_keeps
    | with_reducible apply updCrane_keeps
    | (intro x; rfl)

/-! ## The quay stop (R133 to R135) -/

theorem saveEnable_keeps (hl : [.cranes] ⊆ l) {c : Nat} (h : SameBut l q t) :
    SameBut l q (t.saveEnable c) := by
  unfold saveEnable
  try dsimp only
  repeat' first
    | with_reducible exact h
    | with_reducible exact List.Subset.trans (by decide) hl
    | with_reducible apply updCrane_keeps
    | (intro x; rfl)

theorem holdTimers_keeps (hl : [.cranes] ⊆ l) {c : Nat} (h : SameBut l q t) :
    SameBut l q (t.holdTimers c) := by
  unfold holdTimers
  try dsimp only
  repeat' first
    | with_reducible exact h
    | with_reducible exact List.Subset.trans (by decide) hl
    | with_reducible apply updCrane_keeps
    | (intro x; rfl)

theorem startStop_keeps (hl : ([.stop] ++ orderParts) ⊆ l) {r : Source} (h : SameBut l q t) :
    SameBut l q (t.startStop r) := by
  unfold startStop
  try dsimp only
  repeat' first
    | with_reducible exact h
    | with_reducible exact List.Subset.trans (by decide) hl
    | (with_reducible apply forEach_keeps; intro x t h)
    | with_reducible apply post_keeps
    | with_reducible apply broadcastUrgent_keeps
    | with_reducible apply holdTimers_keeps
    | with_reducible apply withdraw_keeps
    | with_reducible apply saveEnable_keeps
    | with_reducible apply setStop_keeps

theorem addSource_keeps (hl : ([.stop] ++ orderParts) ⊆ l) {r : Source} (h : SameBut l q t) :
    SameBut l q (t.addSource r) := by
  unfold addSource
  try dsimp only
  repeat' first
    | with_reducible exact h
    | with_reducible exact List.Subset.trans (by decide) hl
    | with_reducible apply startStop_keeps
    | with_reducible apply setStop_keeps
    | split

/-! ## The links (R140 to R146) -/

theorem endTravel_keeps (hl : [.cranes] ⊆ l) {c : Nat} (h : SameBut l q t) : SameBut l q (t.endTravel c) :=
  updCrane_keeps hl (fun _ => rfl) h

theorem craneGone_keeps (hl : orderParts ⊆ l) {c : Nat} {b : Bool} (h : SameBut l q t) :
    SameBut l q (t.craneGone c b) := by
  unfold craneGone
  try dsimp only
  repeat' first
    | with_reducible exact h
    | with_reducible exact List.Subset.trans (by decide) hl
    | with_reducible apply endTravel_keeps
    | with_reducible apply updCrane_keeps
    | with_reducible apply withdraw_keeps
    | with_reducible apply moveFaulted_keeps
    | (intro x; rfl)
    | split

theorem gangGone_keeps (hl : [.gangs, .dispatch, .pool] ⊆ l) {g : Nat} (h : SameBut l q t) :
    SameBut l q (t.gangGone g) := by
  unfold gangGone
  try dsimp only
  repeat' first
    | with_reducible exact h
    | with_reducible exact List.Subset.trans (by decide) hl
    | with_reducible apply giveBack_keeps
    | with_reducible apply gangToIdle_keeps
    | split

theorem stationGone_keeps (hl : ([.gangs, .dispatch] ++ orderParts) ⊆ l) {k : Link} {n : Nat} {b : Bool} (h : SameBut l q t) :
    SameBut l q (t.stationGone k n b) := by
  unfold stationGone
  try dsimp only
  repeat' first
    | with_reducible exact h
    | with_reducible exact List.Subset.trans (by decide) hl
    | with_reducible apply craneGone_keeps
    | with_reducible apply gangGone_keeps
    | split

theorem stationOff_keeps (hl : ([.craneLink, .laneLink, .stations, .gangs, .dispatch] ++ orderParts) ⊆ l) {k : Link} {n : Nat} (h : SameBut l q t) :
    SameBut l q (t.stationOff k n) := by
  unfold stationOff
  try dsimp only
  repeat' first
    | with_reducible exact h
    | with_reducible exact List.Subset.trans (by decide) hl
    | with_reducible apply stationGone_keeps
    | with_reducible apply post_keeps
    | with_reducible apply setStation_keeps

theorem goSilent_keeps (hl : ([.craneLink, .laneLink, .stations, .gangs, .dispatch, .freeCount] ++ orderParts) ⊆ l) {k : Link} (h : SameBut l q t) :
    SameBut l q (t.goSilent k) := by
  unfold goSilent
  try dsimp only
  repeat' first
    | with_reducible exact h
    | with_reducible exact List.Subset.trans (by decide) hl
    | (with_reducible apply forEach_keeps; intro x t h)
    | with_reducible apply freedSlots_keeps
    | with_reducible apply post_keeps
    | with_reducible apply updLink_keeps
    | with_reducible apply stationGone_keeps
    | with_reducible apply setStation_keeps
    | with_reducible apply setPool_keeps
    | (intro x; rfl)
    | split

theorem judgeScore_keeps (hl : ([.craneLink, .laneLink, .stations, .gangs, .dispatch, .freeCount] ++ orderParts) ⊆ l) {k : Link} (h : SameBut l q t) :
    SameBut l q (t.judgeScore k) := by
  unfold judgeScore
  try dsimp only
  repeat' first
    | with_reducible exact h
    | with_reducible exact List.Subset.trans (by decide) hl
    | with_reducible apply goSilent_keeps
    | with_reducible apply post_keeps
    | with_reducible apply updLink_keeps
    | (intro x; rfl)
    | split

theorem addScore_keeps (hl : ([.craneLink, .laneLink, .stations, .gangs, .dispatch, .freeCount] ++ orderParts) ⊆ l) {k : Link} {n : Nat} (h : SameBut l q t) :
    SameBut l q (t.addScore k n) := by
  unfold addScore
  try dsimp only
  repeat' first
    | with_reducible exact h
    | with_reducible exact List.Subset.trans (by decide) hl
    | with_reducible apply judgeScore_keeps
    | with_reducible apply updLink_keeps
    | (intro x; rfl)

theorem lowerScore_keeps (hl : ([.craneLink, .laneLink, .stations, .gangs, .dispatch, .freeCount] ++ orderParts) ⊆ l) {k : Link} (h : SameBut l q t) :
    SameBut l q (t.lowerScore k) := by
  unfold lowerScore
  try dsimp only
  repeat' first
    | with_reducible exact h
    | with_reducible exact List.Subset.trans (by decide) hl
    | with_reducible apply judgeScore_keeps
    | with_reducible apply updLink_keeps
    | (intro x; rfl)

theorem goActive_keeps (hl : ([.craneLink, .laneLink, .events] ++ grantParts) ⊆ l) {k : Link} (h : SameBut l q t) :
    SameBut l q (t.goActive k) := by
  unfold goActive
  try dsimp only
  repeat' first
    | with_reducible exact h
    | with_reducible exact List.Subset.trans (by decide) hl
    | with_reducible apply judgeAll_keeps
    | with_reducible apply post_keeps
    | with_reducible apply updLink_keeps
    | (intro x; rfl)
    | split

theorem quietComplete_keeps (hl : ([.craneLink, .laneLink, .events] ++ grantParts) ⊆ l) {k : Link} (h : SameBut l q t) :
    SameBut l q (t.quietComplete k) := by
  unfold quietComplete
  try dsimp only
  repeat' first
    | with_reducible exact h
    | with_reducible exact List.Subset.trans (by decide) hl
    | with_reducible apply goActive_keeps
    | with_reducible apply updLink_keeps
    | (intro x; rfl)
    | split

theorem setAck_keeps (hl : [.craneLink, .laneLink] ⊆ l) {k : Link} {b : Bool} (h : SameBut l q t) :
    SameBut l q (t.setAck k b) := by
  unfold setAck
  try dsimp only
  repeat' first
    | with_reducible exact h
    | with_reducible exact List.Subset.trans (by decide) hl
    | with_reducible apply updLink_keeps
    | (intro x; rfl)

theorem malformed_keeps (hl : ([.craneLink, .laneLink, .stations, .gangs, .dispatch, .freeCount] ++ orderParts) ⊆ l) {k : Link} (h : SameBut l q t) :
    SameBut l q (t.malformed k) := by
  unfold malformed
  try dsimp only
  repeat' first
    | with_reducible exact h
    | with_reducible exact List.Subset.trans (by decide) hl
    | with_reducible apply addScore_keeps
    | with_reducible apply setAck_keeps

/-! ## Read selections and format errors (R152, R153) -/

theorem takeEvents_keeps (hl : [.events] ⊆ l) {n : Nat} (h : SameBut l q t) : SameBut l q (t.takeEvents n) := by
  refine h.step hl ?_
  intro p hp
  cases p <;> first | rfl | exact ⟨rfl, rfl⟩ | exact absurd (by decide) hp

theorem setSdo_keeps (hl : [.port] ⊆ l) {x : List Byte} (h : SameBut l q t) :
    SameBut l q (t.setSdo x) := by
  unfold setSdo
  try dsimp only
  repeat' first
    | with_reducible exact h
    | with_reducible exact List.Subset.trans (by decide) hl
    | with_reducible apply updPort_keeps

theorem clearGuard_keeps (hl : [.port] ⊆ l) (h : SameBut l q t) :
    SameBut l q (t.clearGuard) := by
  unfold clearGuard
  try dsimp only
  repeat' first
    | with_reducible exact h
    | with_reducible exact List.Subset.trans (by decide) hl
    | with_reducible apply updPort_keeps

theorem giveBytes_keeps (hl : [.port, .events, .freeCount] ⊆ l) {c : Byte} {n : Nat} (h : SameBut l q t) :
    SameBut l q (t.giveBytes c n) := by
  unfold giveBytes readReply readEvents readStatus countLaneRead
  try dsimp only
  repeat' first
    | with_reducible exact h
    | with_reducible exact List.Subset.trans (by decide) hl
    | with_reducible apply setSdo_keeps
    | with_reducible apply takeEvents_keeps
    | with_reducible apply countFree_keeps
    | with_reducible apply updPort_keeps
    | split

theorem formatError_keeps (hl : [.port, .events, .freeCount] ⊆ l) {w : FormatCause} {c : Byte} {n : Nat} (h : SameBut l q t) :
    SameBut l q (t.formatError w c n) := by
  unfold formatError
  try dsimp only
  repeat' first
    | with_reducible exact h
    | with_reducible exact List.Subset.trans (by decide) hl
    | with_reducible apply passOver_keeps
    | with_reducible apply updPort_keeps
    | with_reducible apply post_keeps
    | with_reducible apply giveBytes_keeps
    | split

theorem readSelection_keeps (hl : [.port, .events, .freeCount] ⊆ l) {c : Byte} {n : Nat} (h : SameBut l q t) :
    SameBut l q (t.readSelection c n) := by
  unfold readSelection
  try dsimp only
  repeat' first
    | with_reducible exact h
    | with_reducible exact List.Subset.trans (by decide) hl
    | with_reducible apply clearGuard_keeps
    | with_reducible apply updPort_keeps
    | with_reducible apply giveBytes_keeps
    | with_reducible apply formatError_keeps
    | split

/-! ## A truck leaves (R105) -/

theorem leaveBound_keeps (hl : orderParts ⊆ l) {m : Move} {p : Nat} {tag : Word16} (h : SameBut l q t) :
    SameBut l q (t.leaveBound m p tag) := by
  unfold leaveBound
  try dsimp only
  repeat' first
    | with_reducible exact h
    | with_reducible exact List.Subset.trans (by decide) hl
    | with_reducible apply afterWithdraw_keeps
    | with_reducible apply removeTruck_keeps
    | with_reducible apply unbindAndRestage_keeps
    | with_reducible apply withdrawCore_keeps
    | split

end Quay

end Sys2Proof.Machine
end

