-- ==== Sys2Proof/Laws/State.lean ====
section
/-!
SUPPORT. What each basic update leaves in each field of the state: `<update>_<field>`, true by rfl, so that no proof
unfolds a record update. The two fields that `post` writes and the fields of a link controller have their own lemmas
at the end.
-/

namespace Sys2Proof.Machine

@[simp] theorem State.next_eq (s : State) (q : Quay) : s.next q = .next { s with quay := q } := rfl

namespace Quay

/-! ## setItem -/

@[simp] theorem setItem_pins (q : Quay) (n : Nat) (v : Word16) : (q.setItem n v).pins = q.pins := rfl
@[simp] theorem setItem_profile (q : Quay) (n : Nat) (v : Word16) :
    (q.setItem n v).profile = (q.profile.map fun x => if x.1 = n then (x.1, v) else x) := rfl
@[simp] theorem setItem_stage (q : Quay) (n : Nat) (v : Word16) : (q.setItem n v).stage = q.stage := rfl
@[simp] theorem setItem_loader (q : Quay) (n : Nat) (v : Word16) : (q.setItem n v).loader = q.loader := rfl
@[simp] theorem setItem_clock (q : Quay) (n : Nat) (v : Word16) : (q.setItem n v).clock = q.clock := rfl
@[simp] theorem setItem_bays (q : Quay) (n : Nat) (v : Word16) : (q.setItem n v).bays = q.bays := rfl
@[simp] theorem setItem_orders (q : Quay) (n : Nat) (v : Word16) : (q.setItem n v).orders = q.orders := rfl
@[simp] theorem setItem_assembly (q : Quay) (n : Nat) (v : Word16) : (q.setItem n v).assembly = q.assembly := rfl
@[simp] theorem setItem_freeList (q : Quay) (n : Nat) (v : Word16) : (q.setItem n v).freeList = q.freeList := rfl
@[simp] theorem setItem_moves (q : Quay) (n : Nat) (v : Word16) : (q.setItem n v).moves = q.moves := rfl
@[simp] theorem setItem_cranes (q : Quay) (n : Nat) (v : Word16) : (q.setItem n v).cranes = q.cranes := rfl
@[simp] theorem setItem_grantCounter (q : Quay) (n : Nat) (v : Word16) : (q.setItem n v).grantCounter = q.grantCounter := rfl
@[simp] theorem setItem_lanes (q : Quay) (n : Nat) (v : Word16) : (q.setItem n v).lanes = q.lanes := rfl
@[simp] theorem setItem_gangs (q : Quay) (n : Nat) (v : Word16) : (q.setItem n v).gangs = q.gangs := rfl
@[simp] theorem setItem_dispatch (q : Quay) (n : Nat) (v : Word16) : (q.setItem n v).dispatch = q.dispatch := rfl
@[simp] theorem setItem_stop (q : Quay) (n : Nat) (v : Word16) : (q.setItem n v).stop = q.stop := rfl
@[simp] theorem setItem_craneLink (q : Quay) (n : Nat) (v : Word16) : (q.setItem n v).craneLink = q.craneLink := rfl
@[simp] theorem setItem_laneLink (q : Quay) (n : Nat) (v : Word16) : (q.setItem n v).laneLink = q.laneLink := rfl
@[simp] theorem setItem_pool (q : Quay) (n : Nat) (v : Word16) : (q.setItem n v).pool = q.pool := rfl
@[simp] theorem setItem_port (q : Quay) (n : Nat) (v : Word16) : (q.setItem n v).port = q.port := rfl
@[simp] theorem setItem_events (q : Quay) (n : Nat) (v : Word16) : (q.setItem n v).events = q.events := rfl
@[simp] theorem setItem_overflow (q : Quay) (n : Nat) (v : Word16) : (q.setItem n v).overflow = q.overflow := rfl
@[simp] theorem setItem_grantBar (q : Quay) (n : Nat) (v : Word16) : (q.setItem n v).grantBar = q.grantBar := rfl
@[simp] theorem setItem_freeCount (q : Quay) (n : Nat) (v : Word16) : (q.setItem n v).freeCount = q.freeCount := rfl

/-! ## updPins -/

@[simp] theorem updPins_pins (q : Quay) (f : Pins → Pins) :
    (q.updPins f).pins = f q.pins := rfl
@[simp] theorem updPins_profile (q : Quay) (f : Pins → Pins) : (q.updPins f).profile = q.profile := rfl
@[simp] theorem updPins_stage (q : Quay) (f : Pins → Pins) : (q.updPins f).stage = q.stage := rfl
@[simp] theorem updPins_loader (q : Quay) (f : Pins → Pins) : (q.updPins f).loader = q.loader := rfl
@[simp] theorem updPins_clock (q : Quay) (f : Pins → Pins) : (q.updPins f).clock = q.clock := rfl
@[simp] theorem updPins_bays (q : Quay) (f : Pins → Pins) : (q.updPins f).bays = q.bays := rfl
@[simp] theorem updPins_orders (q : Quay) (f : Pins → Pins) : (q.updPins f).orders = q.orders := rfl
@[simp] theorem updPins_assembly (q : Quay) (f : Pins → Pins) : (q.updPins f).assembly = q.assembly := rfl
@[simp] theorem updPins_freeList (q : Quay) (f : Pins → Pins) : (q.updPins f).freeList = q.freeList := rfl
@[simp] theorem updPins_moves (q : Quay) (f : Pins → Pins) : (q.updPins f).moves = q.moves := rfl
@[simp] theorem updPins_cranes (q : Quay) (f : Pins → Pins) : (q.updPins f).cranes = q.cranes := rfl
@[simp] theorem updPins_grantCounter (q : Quay) (f : Pins → Pins) : (q.updPins f).grantCounter = q.grantCounter := rfl
@[simp] theorem updPins_lanes (q : Quay) (f : Pins → Pins) : (q.updPins f).lanes = q.lanes := rfl
@[simp] theorem updPins_gangs (q : Quay) (f : Pins → Pins) : (q.updPins f).gangs = q.gangs := rfl
@[simp] theorem updPins_dispatch (q : Quay) (f : Pins → Pins) : (q.updPins f).dispatch = q.dispatch := rfl
@[simp] theorem updPins_stop (q : Quay) (f : Pins → Pins) : (q.updPins f).stop = q.stop := rfl
@[simp] theorem updPins_craneLink (q : Quay) (f : Pins → Pins) : (q.updPins f).craneLink = q.craneLink := rfl
@[simp] theorem updPins_laneLink (q : Quay) (f : Pins → Pins) : (q.updPins f).laneLink = q.laneLink := rfl
@[simp] theorem updPins_pool (q : Quay) (f : Pins → Pins) : (q.updPins f).pool = q.pool := rfl
@[simp] theorem updPins_port (q : Quay) (f : Pins → Pins) : (q.updPins f).port = q.port := rfl
@[simp] theorem updPins_events (q : Quay) (f : Pins → Pins) : (q.updPins f).events = q.events := rfl
@[simp] theorem updPins_overflow (q : Quay) (f : Pins → Pins) : (q.updPins f).overflow = q.overflow := rfl
@[simp] theorem updPins_grantBar (q : Quay) (f : Pins → Pins) : (q.updPins f).grantBar = q.grantBar := rfl
@[simp] theorem updPins_freeCount (q : Quay) (f : Pins → Pins) : (q.updPins f).freeCount = q.freeCount := rfl

/-! ## setProfile -/

@[simp] theorem setProfile_pins (q : Quay) (p : List (Nat × Word16)) : (q.setProfile p).pins = q.pins := rfl
@[simp] theorem setProfile_profile (q : Quay) (p : List (Nat × Word16)) :
    (q.setProfile p).profile = p := rfl
@[simp] theorem setProfile_stage (q : Quay) (p : List (Nat × Word16)) : (q.setProfile p).stage = q.stage := rfl
@[simp] theorem setProfile_loader (q : Quay) (p : List (Nat × Word16)) : (q.setProfile p).loader = q.loader := rfl
@[simp] theorem setProfile_clock (q : Quay) (p : List (Nat × Word16)) : (q.setProfile p).clock = q.clock := rfl
@[simp] theorem setProfile_bays (q : Quay) (p : List (Nat × Word16)) : (q.setProfile p).bays = q.bays := rfl
@[simp] theorem setProfile_orders (q : Quay) (p : List (Nat × Word16)) : (q.setProfile p).orders = q.orders := rfl
@[simp] theorem setProfile_assembly (q : Quay) (p : List (Nat × Word16)) : (q.setProfile p).assembly = q.assembly := rfl
@[simp] theorem setProfile_freeList (q : Quay) (p : List (Nat × Word16)) : (q.setProfile p).freeList = q.freeList := rfl
@[simp] theorem setProfile_moves (q : Quay) (p : List (Nat × Word16)) : (q.setProfile p).moves = q.moves := rfl
@[simp] theorem setProfile_cranes (q : Quay) (p : List (Nat × Word16)) : (q.setProfile p).cranes = q.cranes := rfl
@[simp] theorem setProfile_grantCounter (q : Quay) (p : List (Nat × Word16)) : (q.setProfile p).grantCounter = q.grantCounter := rfl
@[simp] theorem setProfile_lanes (q : Quay) (p : List (Nat × Word16)) : (q.setProfile p).lanes = q.lanes := rfl
@[simp] theorem setProfile_gangs (q : Quay) (p : List (Nat × Word16)) : (q.setProfile p).gangs = q.gangs := rfl
@[simp] theorem setProfile_dispatch (q : Quay) (p : List (Nat × Word16)) : (q.setProfile p).dispatch = q.dispatch := rfl
@[simp] theorem setProfile_stop (q : Quay) (p : List (Nat × Word16)) : (q.setProfile p).stop = q.stop := rfl
@[simp] theorem setProfile_craneLink (q : Quay) (p : List (Nat × Word16)) : (q.setProfile p).craneLink = q.craneLink := rfl
@[simp] theorem setProfile_laneLink (q : Quay) (p : List (Nat × Word16)) : (q.setProfile p).laneLink = q.laneLink := rfl
@[simp] theorem setProfile_pool (q : Quay) (p : List (Nat × Word16)) : (q.setProfile p).pool = q.pool := rfl
@[simp] theorem setProfile_port (q : Quay) (p : List (Nat × Word16)) : (q.setProfile p).port = q.port := rfl
@[simp] theorem setProfile_events (q : Quay) (p : List (Nat × Word16)) : (q.setProfile p).events = q.events := rfl
@[simp] theorem setProfile_overflow (q : Quay) (p : List (Nat × Word16)) : (q.setProfile p).overflow = q.overflow := rfl
@[simp] theorem setProfile_grantBar (q : Quay) (p : List (Nat × Word16)) : (q.setProfile p).grantBar = q.grantBar := rfl
@[simp] theorem setProfile_freeCount (q : Quay) (p : List (Nat × Word16)) : (q.setProfile p).freeCount = q.freeCount := rfl

/-! ## setStage -/

@[simp] theorem setStage_pins (q : Quay) (x : Stage) : (q.setStage x).pins = q.pins := rfl
@[simp] theorem setStage_profile (q : Quay) (x : Stage) : (q.setStage x).profile = q.profile := rfl
@[simp] theorem setStage_stage (q : Quay) (x : Stage) :
    (q.setStage x).stage = x := rfl
@[simp] theorem setStage_loader (q : Quay) (x : Stage) : (q.setStage x).loader = q.loader := rfl
@[simp] theorem setStage_clock (q : Quay) (x : Stage) : (q.setStage x).clock = q.clock := rfl
@[simp] theorem setStage_bays (q : Quay) (x : Stage) : (q.setStage x).bays = q.bays := rfl
@[simp] theorem setStage_orders (q : Quay) (x : Stage) : (q.setStage x).orders = q.orders := rfl
@[simp] theorem setStage_assembly (q : Quay) (x : Stage) : (q.setStage x).assembly = q.assembly := rfl
@[simp] theorem setStage_freeList (q : Quay) (x : Stage) : (q.setStage x).freeList = q.freeList := rfl
@[simp] theorem setStage_moves (q : Quay) (x : Stage) : (q.setStage x).moves = q.moves := rfl
@[simp] theorem setStage_cranes (q : Quay) (x : Stage) : (q.setStage x).cranes = q.cranes := rfl
@[simp] theorem setStage_grantCounter (q : Quay) (x : Stage) : (q.setStage x).grantCounter = q.grantCounter := rfl
@[simp] theorem setStage_lanes (q : Quay) (x : Stage) : (q.setStage x).lanes = q.lanes := rfl
@[simp] theorem setStage_gangs (q : Quay) (x : Stage) : (q.setStage x).gangs = q.gangs := rfl
@[simp] theorem setStage_dispatch (q : Quay) (x : Stage) : (q.setStage x).dispatch = q.dispatch := rfl
@[simp] theorem setStage_stop (q : Quay) (x : Stage) : (q.setStage x).stop = q.stop := rfl
@[simp] theorem setStage_craneLink (q : Quay) (x : Stage) : (q.setStage x).craneLink = q.craneLink := rfl
@[simp] theorem setStage_laneLink (q : Quay) (x : Stage) : (q.setStage x).laneLink = q.laneLink := rfl
@[simp] theorem setStage_pool (q : Quay) (x : Stage) : (q.setStage x).pool = q.pool := rfl
@[simp] theorem setStage_port (q : Quay) (x : Stage) : (q.setStage x).port = q.port := rfl
@[simp] theorem setStage_events (q : Quay) (x : Stage) : (q.setStage x).events = q.events := rfl
@[simp] theorem setStage_overflow (q : Quay) (x : Stage) : (q.setStage x).overflow = q.overflow := rfl
@[simp] theorem setStage_grantBar (q : Quay) (x : Stage) : (q.setStage x).grantBar = q.grantBar := rfl
@[simp] theorem setStage_freeCount (q : Quay) (x : Stage) : (q.setStage x).freeCount = q.freeCount := rfl

/-! ## updLoader -/

@[simp] theorem updLoader_pins (q : Quay) (f : Loader → Loader) : (q.updLoader f).pins = q.pins := rfl
@[simp] theorem updLoader_profile (q : Quay) (f : Loader → Loader) : (q.updLoader f).profile = q.profile := rfl
@[simp] theorem updLoader_stage (q : Quay) (f : Loader → Loader) : (q.updLoader f).stage = q.stage := rfl
@[simp] theorem updLoader_loader (q : Quay) (f : Loader → Loader) :
    (q.updLoader f).loader = f q.loader := rfl
@[simp] theorem updLoader_clock (q : Quay) (f : Loader → Loader) : (q.updLoader f).clock = q.clock := rfl
@[simp] theorem updLoader_bays (q : Quay) (f : Loader → Loader) : (q.updLoader f).bays = q.bays := rfl
@[simp] theorem updLoader_orders (q : Quay) (f : Loader → Loader) : (q.updLoader f).orders = q.orders := rfl
@[simp] theorem updLoader_assembly (q : Quay) (f : Loader → Loader) : (q.updLoader f).assembly = q.assembly := rfl
@[simp] theorem updLoader_freeList (q : Quay) (f : Loader → Loader) : (q.updLoader f).freeList = q.freeList := rfl
@[simp] theorem updLoader_moves (q : Quay) (f : Loader → Loader) : (q.updLoader f).moves = q.moves := rfl
@[simp] theorem updLoader_cranes (q : Quay) (f : Loader → Loader) : (q.updLoader f).cranes = q.cranes := rfl
@[simp] theorem updLoader_grantCounter (q : Quay) (f : Loader → Loader) : (q.updLoader f).grantCounter = q.grantCounter := rfl
@[simp] theorem updLoader_lanes (q : Quay) (f : Loader → Loader) : (q.updLoader f).lanes = q.lanes := rfl
@[simp] theorem updLoader_gangs (q : Quay) (f : Loader → Loader) : (q.updLoader f).gangs = q.gangs := rfl
@[simp] theorem updLoader_dispatch (q : Quay) (f : Loader → Loader) : (q.updLoader f).dispatch = q.dispatch := rfl
@[simp] theorem updLoader_stop (q : Quay) (f : Loader → Loader) : (q.updLoader f).stop = q.stop := rfl
@[simp] theorem updLoader_craneLink (q : Quay) (f : Loader → Loader) : (q.updLoader f).craneLink = q.craneLink := rfl
@[simp] theorem updLoader_laneLink (q : Quay) (f : Loader → Loader) : (q.updLoader f).laneLink = q.laneLink := rfl
@[simp] theorem updLoader_pool (q : Quay) (f : Loader → Loader) : (q.updLoader f).pool = q.pool := rfl
@[simp] theorem updLoader_port (q : Quay) (f : Loader → Loader) : (q.updLoader f).port = q.port := rfl
@[simp] theorem updLoader_events (q : Quay) (f : Loader → Loader) : (q.updLoader f).events = q.events := rfl
@[simp] theorem updLoader_overflow (q : Quay) (f : Loader → Loader) : (q.updLoader f).overflow = q.overflow := rfl
@[simp] theorem updLoader_grantBar (q : Quay) (f : Loader → Loader) : (q.updLoader f).grantBar = q.grantBar := rfl
@[simp] theorem updLoader_freeCount (q : Quay) (f : Loader → Loader) : (q.updLoader f).freeCount = q.freeCount := rfl

/-! ## setAssembly -/

@[simp] theorem setAssembly_pins (q : Quay) (a : Option Assembly) : (q.setAssembly a).pins = q.pins := rfl
@[simp] theorem setAssembly_profile (q : Quay) (a : Option Assembly) : (q.setAssembly a).profile = q.profile := rfl
@[simp] theorem setAssembly_stage (q : Quay) (a : Option Assembly) : (q.setAssembly a).stage = q.stage := rfl
@[simp] theorem setAssembly_loader (q : Quay) (a : Option Assembly) : (q.setAssembly a).loader = q.loader := rfl
@[simp] theorem setAssembly_clock (q : Quay) (a : Option Assembly) : (q.setAssembly a).clock = q.clock := rfl
@[simp] theorem setAssembly_bays (q : Quay) (a : Option Assembly) : (q.setAssembly a).bays = q.bays := rfl
@[simp] theorem setAssembly_orders (q : Quay) (a : Option Assembly) : (q.setAssembly a).orders = q.orders := rfl
@[simp] theorem setAssembly_assembly (q : Quay) (a : Option Assembly) :
    (q.setAssembly a).assembly = a := rfl
@[simp] theorem setAssembly_freeList (q : Quay) (a : Option Assembly) : (q.setAssembly a).freeList = q.freeList := rfl
@[simp] theorem setAssembly_moves (q : Quay) (a : Option Assembly) : (q.setAssembly a).moves = q.moves := rfl
@[simp] theorem setAssembly_cranes (q : Quay) (a : Option Assembly) : (q.setAssembly a).cranes = q.cranes := rfl
@[simp] theorem setAssembly_grantCounter (q : Quay) (a : Option Assembly) : (q.setAssembly a).grantCounter = q.grantCounter := rfl
@[simp] theorem setAssembly_lanes (q : Quay) (a : Option Assembly) : (q.setAssembly a).lanes = q.lanes := rfl
@[simp] theorem setAssembly_gangs (q : Quay) (a : Option Assembly) : (q.setAssembly a).gangs = q.gangs := rfl
@[simp] theorem setAssembly_dispatch (q : Quay) (a : Option Assembly) : (q.setAssembly a).dispatch = q.dispatch := rfl
@[simp] theorem setAssembly_stop (q : Quay) (a : Option Assembly) : (q.setAssembly a).stop = q.stop := rfl
@[simp] theorem setAssembly_craneLink (q : Quay) (a : Option Assembly) : (q.setAssembly a).craneLink = q.craneLink := rfl
@[simp] theorem setAssembly_laneLink (q : Quay) (a : Option Assembly) : (q.setAssembly a).laneLink = q.laneLink := rfl
@[simp] theorem setAssembly_pool (q : Quay) (a : Option Assembly) : (q.setAssembly a).pool = q.pool := rfl
@[simp] theorem setAssembly_port (q : Quay) (a : Option Assembly) : (q.setAssembly a).port = q.port := rfl
@[simp] theorem setAssembly_events (q : Quay) (a : Option Assembly) : (q.setAssembly a).events = q.events := rfl
@[simp] theorem setAssembly_overflow (q : Quay) (a : Option Assembly) : (q.setAssembly a).overflow = q.overflow := rfl
@[simp] theorem setAssembly_grantBar (q : Quay) (a : Option Assembly) : (q.setAssembly a).grantBar = q.grantBar := rfl
@[simp] theorem setAssembly_freeCount (q : Quay) (a : Option Assembly) : (q.setAssembly a).freeCount = q.freeCount := rfl

/-! ## setFreeList -/

@[simp] theorem setFreeList_pins (q : Quay) (x : List Nat) : (q.setFreeList x).pins = q.pins := rfl
@[simp] theorem setFreeList_profile (q : Quay) (x : List Nat) : (q.setFreeList x).profile = q.profile := rfl
@[simp] theorem setFreeList_stage (q : Quay) (x : List Nat) : (q.setFreeList x).stage = q.stage := rfl
@[simp] theorem setFreeList_loader (q : Quay) (x : List Nat) : (q.setFreeList x).loader = q.loader := rfl
@[simp] theorem setFreeList_clock (q : Quay) (x : List Nat) : (q.setFreeList x).clock = q.clock := rfl
@[simp] theorem setFreeList_bays (q : Quay) (x : List Nat) : (q.setFreeList x).bays = q.bays := rfl
@[simp] theorem setFreeList_orders (q : Quay) (x : List Nat) : (q.setFreeList x).orders = q.orders := rfl
@[simp] theorem setFreeList_assembly (q : Quay) (x : List Nat) : (q.setFreeList x).assembly = q.assembly := rfl
@[simp] theorem setFreeList_freeList (q : Quay) (x : List Nat) :
    (q.setFreeList x).freeList = x := rfl
@[simp] theorem setFreeList_moves (q : Quay) (x : List Nat) : (q.setFreeList x).moves = q.moves := rfl
@[simp] theorem setFreeList_cranes (q : Quay) (x : List Nat) : (q.setFreeList x).cranes = q.cranes := rfl
@[simp] theorem setFreeList_grantCounter (q : Quay) (x : List Nat) : (q.setFreeList x).grantCounter = q.grantCounter := rfl
@[simp] theorem setFreeList_lanes (q : Quay) (x : List Nat) : (q.setFreeList x).lanes = q.lanes := rfl
@[simp] theorem setFreeList_gangs (q : Quay) (x : List Nat) : (q.setFreeList x).gangs = q.gangs := rfl
@[simp] theorem setFreeList_dispatch (q : Quay) (x : List Nat) : (q.setFreeList x).dispatch = q.dispatch := rfl
@[simp] theorem setFreeList_stop (q : Quay) (x : List Nat) : (q.setFreeList x).stop = q.stop := rfl
@[simp] theorem setFreeList_craneLink (q : Quay) (x : List Nat) : (q.setFreeList x).craneLink = q.craneLink := rfl
@[simp] theorem setFreeList_laneLink (q : Quay) (x : List Nat) : (q.setFreeList x).laneLink = q.laneLink := rfl
@[simp] theorem setFreeList_pool (q : Quay) (x : List Nat) : (q.setFreeList x).pool = q.pool := rfl
@[simp] theorem setFreeList_port (q : Quay) (x : List Nat) : (q.setFreeList x).port = q.port := rfl
@[simp] theorem setFreeList_events (q : Quay) (x : List Nat) : (q.setFreeList x).events = q.events := rfl
@[simp] theorem setFreeList_overflow (q : Quay) (x : List Nat) : (q.setFreeList x).overflow = q.overflow := rfl
@[simp] theorem setFreeList_grantBar (q : Quay) (x : List Nat) : (q.setFreeList x).grantBar = q.grantBar := rfl
@[simp] theorem setFreeList_freeCount (q : Quay) (x : List Nat) : (q.setFreeList x).freeCount = q.freeCount := rfl

/-! ## setCounter -/

@[simp] theorem setCounter_pins (q : Quay) (w : Word16) : (q.setCounter w).pins = q.pins := rfl
@[simp] theorem setCounter_profile (q : Quay) (w : Word16) : (q.setCounter w).profile = q.profile := rfl
@[simp] theorem setCounter_stage (q : Quay) (w : Word16) : (q.setCounter w).stage = q.stage := rfl
@[simp] theorem setCounter_loader (q : Quay) (w : Word16) : (q.setCounter w).loader = q.loader := rfl
@[simp] theorem setCounter_clock (q : Quay) (w : Word16) : (q.setCounter w).clock = q.clock := rfl
@[simp] theorem setCounter_bays (q : Quay) (w : Word16) : (q.setCounter w).bays = q.bays := rfl
@[simp] theorem setCounter_orders (q : Quay) (w : Word16) : (q.setCounter w).orders = q.orders := rfl
@[simp] theorem setCounter_assembly (q : Quay) (w : Word16) : (q.setCounter w).assembly = q.assembly := rfl
@[simp] theorem setCounter_freeList (q : Quay) (w : Word16) : (q.setCounter w).freeList = q.freeList := rfl
@[simp] theorem setCounter_moves (q : Quay) (w : Word16) : (q.setCounter w).moves = q.moves := rfl
@[simp] theorem setCounter_cranes (q : Quay) (w : Word16) : (q.setCounter w).cranes = q.cranes := rfl
@[simp] theorem setCounter_grantCounter (q : Quay) (w : Word16) :
    (q.setCounter w).grantCounter = w := rfl
@[simp] theorem setCounter_lanes (q : Quay) (w : Word16) : (q.setCounter w).lanes = q.lanes := rfl
@[simp] theorem setCounter_gangs (q : Quay) (w : Word16) : (q.setCounter w).gangs = q.gangs := rfl
@[simp] theorem setCounter_dispatch (q : Quay) (w : Word16) : (q.setCounter w).dispatch = q.dispatch := rfl
@[simp] theorem setCounter_stop (q : Quay) (w : Word16) : (q.setCounter w).stop = q.stop := rfl
@[simp] theorem setCounter_craneLink (q : Quay) (w : Word16) : (q.setCounter w).craneLink = q.craneLink := rfl
@[simp] theorem setCounter_laneLink (q : Quay) (w : Word16) : (q.setCounter w).laneLink = q.laneLink := rfl
@[simp] theorem setCounter_pool (q : Quay) (w : Word16) : (q.setCounter w).pool = q.pool := rfl
@[simp] theorem setCounter_port (q : Quay) (w : Word16) : (q.setCounter w).port = q.port := rfl
@[simp] theorem setCounter_events (q : Quay) (w : Word16) : (q.setCounter w).events = q.events := rfl
@[simp] theorem setCounter_overflow (q : Quay) (w : Word16) : (q.setCounter w).overflow = q.overflow := rfl
@[simp] theorem setCounter_grantBar (q : Quay) (w : Word16) : (q.setCounter w).grantBar = q.grantBar := rfl
@[simp] theorem setCounter_freeCount (q : Quay) (w : Word16) : (q.setCounter w).freeCount = q.freeCount := rfl

/-! ## setDispatch -/

@[simp] theorem setDispatch_pins (q : Quay) (x : List Nat) : (q.setDispatch x).pins = q.pins := rfl
@[simp] theorem setDispatch_profile (q : Quay) (x : List Nat) : (q.setDispatch x).profile = q.profile := rfl
@[simp] theorem setDispatch_stage (q : Quay) (x : List Nat) : (q.setDispatch x).stage = q.stage := rfl
@[simp] theorem setDispatch_loader (q : Quay) (x : List Nat) : (q.setDispatch x).loader = q.loader := rfl
@[simp] theorem setDispatch_clock (q : Quay) (x : List Nat) : (q.setDispatch x).clock = q.clock := rfl
@[simp] theorem setDispatch_bays (q : Quay) (x : List Nat) : (q.setDispatch x).bays = q.bays := rfl
@[simp] theorem setDispatch_orders (q : Quay) (x : List Nat) : (q.setDispatch x).orders = q.orders := rfl
@[simp] theorem setDispatch_assembly (q : Quay) (x : List Nat) : (q.setDispatch x).assembly = q.assembly := rfl
@[simp] theorem setDispatch_freeList (q : Quay) (x : List Nat) : (q.setDispatch x).freeList = q.freeList := rfl
@[simp] theorem setDispatch_moves (q : Quay) (x : List Nat) : (q.setDispatch x).moves = q.moves := rfl
@[simp] theorem setDispatch_cranes (q : Quay) (x : List Nat) : (q.setDispatch x).cranes = q.cranes := rfl
@[simp] theorem setDispatch_grantCounter (q : Quay) (x : List Nat) : (q.setDispatch x).grantCounter = q.grantCounter := rfl
@[simp] theorem setDispatch_lanes (q : Quay) (x : List Nat) : (q.setDispatch x).lanes = q.lanes := rfl
@[simp] theorem setDispatch_gangs (q : Quay) (x : List Nat) : (q.setDispatch x).gangs = q.gangs := rfl
@[simp] theorem setDispatch_dispatch (q : Quay) (x : List Nat) :
    (q.setDispatch x).dispatch = x := rfl
@[simp] theorem setDispatch_stop (q : Quay) (x : List Nat) : (q.setDispatch x).stop = q.stop := rfl
@[simp] theorem setDispatch_craneLink (q : Quay) (x : List Nat) : (q.setDispatch x).craneLink = q.craneLink := rfl
@[simp] theorem setDispatch_laneLink (q : Quay) (x : List Nat) : (q.setDispatch x).laneLink = q.laneLink := rfl
@[simp] theorem setDispatch_pool (q : Quay) (x : List Nat) : (q.setDispatch x).pool = q.pool := rfl
@[simp] theorem setDispatch_port (q : Quay) (x : List Nat) : (q.setDispatch x).port = q.port := rfl
@[simp] theorem setDispatch_events (q : Quay) (x : List Nat) : (q.setDispatch x).events = q.events := rfl
@[simp] theorem setDispatch_overflow (q : Quay) (x : List Nat) : (q.setDispatch x).overflow = q.overflow := rfl
@[simp] theorem setDispatch_grantBar (q : Quay) (x : List Nat) : (q.setDispatch x).grantBar = q.grantBar := rfl
@[simp] theorem setDispatch_freeCount (q : Quay) (x : List Nat) : (q.setDispatch x).freeCount = q.freeCount := rfl

/-! ## setStop -/

@[simp] theorem setStop_pins (q : Quay) (r : StopRecord) : (q.setStop r).pins = q.pins := rfl
@[simp] theorem setStop_profile (q : Quay) (r : StopRecord) : (q.setStop r).profile = q.profile := rfl
@[simp] theorem setStop_stage (q : Quay) (r : StopRecord) : (q.setStop r).stage = q.stage := rfl
@[simp] theorem setStop_loader (q : Quay) (r : StopRecord) : (q.setStop r).loader = q.loader := rfl
@[simp] theorem setStop_clock (q : Quay) (r : StopRecord) : (q.setStop r).clock = q.clock := rfl
@[simp] theorem setStop_bays (q : Quay) (r : StopRecord) : (q.setStop r).bays = q.bays := rfl
@[simp] theorem setStop_orders (q : Quay) (r : StopRecord) : (q.setStop r).orders = q.orders := rfl
@[simp] theorem setStop_assembly (q : Quay) (r : StopRecord) : (q.setStop r).assembly = q.assembly := rfl
@[simp] theorem setStop_freeList (q : Quay) (r : StopRecord) : (q.setStop r).freeList = q.freeList := rfl
@[simp] theorem setStop_moves (q : Quay) (r : StopRecord) : (q.setStop r).moves = q.moves := rfl
@[simp] theorem setStop_cranes (q : Quay) (r : StopRecord) : (q.setStop r).cranes = q.cranes := rfl
@[simp] theorem setStop_grantCounter (q : Quay) (r : StopRecord) : (q.setStop r).grantCounter = q.grantCounter := rfl
@[simp] theorem setStop_lanes (q : Quay) (r : StopRecord) : (q.setStop r).lanes = q.lanes := rfl
@[simp] theorem setStop_gangs (q : Quay) (r : StopRecord) : (q.setStop r).gangs = q.gangs := rfl
@[simp] theorem setStop_dispatch (q : Quay) (r : StopRecord) : (q.setStop r).dispatch = q.dispatch := rfl
@[simp] theorem setStop_stop (q : Quay) (r : StopRecord) :
    (q.setStop r).stop = r := rfl
@[simp] theorem setStop_craneLink (q : Quay) (r : StopRecord) : (q.setStop r).craneLink = q.craneLink := rfl
@[simp] theorem setStop_laneLink (q : Quay) (r : StopRecord) : (q.setStop r).laneLink = q.laneLink := rfl
@[simp] theorem setStop_pool (q : Quay) (r : StopRecord) : (q.setStop r).pool = q.pool := rfl
@[simp] theorem setStop_port (q : Quay) (r : StopRecord) : (q.setStop r).port = q.port := rfl
@[simp] theorem setStop_events (q : Quay) (r : StopRecord) : (q.setStop r).events = q.events := rfl
@[simp] theorem setStop_overflow (q : Quay) (r : StopRecord) : (q.setStop r).overflow = q.overflow := rfl
@[simp] theorem setStop_grantBar (q : Quay) (r : StopRecord) : (q.setStop r).grantBar = q.grantBar := rfl
@[simp] theorem setStop_freeCount (q : Quay) (r : StopRecord) : (q.setStop r).freeCount = q.freeCount := rfl

/-! ## setPool -/

@[simp] theorem setPool_pins (q : Quay) (x : List TxFrame) : (q.setPool x).pins = q.pins := rfl
@[simp] theorem setPool_profile (q : Quay) (x : List TxFrame) : (q.setPool x).profile = q.profile := rfl
@[simp] theorem setPool_stage (q : Quay) (x : List TxFrame) : (q.setPool x).stage = q.stage := rfl
@[simp] theorem setPool_loader (q : Quay) (x : List TxFrame) : (q.setPool x).loader = q.loader := rfl
@[simp] theorem setPool_clock (q : Quay) (x : List TxFrame) : (q.setPool x).clock = q.clock := rfl
@[simp] theorem setPool_bays (q : Quay) (x : List TxFrame) : (q.setPool x).bays = q.bays := rfl
@[simp] theorem setPool_orders (q : Quay) (x : List TxFrame) : (q.setPool x).orders = q.orders := rfl
@[simp] theorem setPool_assembly (q : Quay) (x : List TxFrame) : (q.setPool x).assembly = q.assembly := rfl
@[simp] theorem setPool_freeList (q : Quay) (x : List TxFrame) : (q.setPool x).freeList = q.freeList := rfl
@[simp] theorem setPool_moves (q : Quay) (x : List TxFrame) : (q.setPool x).moves = q.moves := rfl
@[simp] theorem setPool_cranes (q : Quay) (x : List TxFrame) : (q.setPool x).cranes = q.cranes := rfl
@[simp] theorem setPool_grantCounter (q : Quay) (x : List TxFrame) : (q.setPool x).grantCounter = q.grantCounter := rfl
@[simp] theorem setPool_lanes (q : Quay) (x : List TxFrame) : (q.setPool x).lanes = q.lanes := rfl
@[simp] theorem setPool_gangs (q : Quay) (x : List TxFrame) : (q.setPool x).gangs = q.gangs := rfl
@[simp] theorem setPool_dispatch (q : Quay) (x : List TxFrame) : (q.setPool x).dispatch = q.dispatch := rfl
@[simp] theorem setPool_stop (q : Quay) (x : List TxFrame) : (q.setPool x).stop = q.stop := rfl
@[simp] theorem setPool_craneLink (q : Quay) (x : List TxFrame) : (q.setPool x).craneLink = q.craneLink := rfl
@[simp] theorem setPool_laneLink (q : Quay) (x : List TxFrame) : (q.setPool x).laneLink = q.laneLink := rfl
@[simp] theorem setPool_pool (q : Quay) (x : List TxFrame) :
    (q.setPool x).pool = x := rfl
@[simp] theorem setPool_port (q : Quay) (x : List TxFrame) : (q.setPool x).port = q.port := rfl
@[simp] theorem setPool_events (q : Quay) (x : List TxFrame) : (q.setPool x).events = q.events := rfl
@[simp] theorem setPool_overflow (q : Quay) (x : List TxFrame) : (q.setPool x).overflow = q.overflow := rfl
@[simp] theorem setPool_grantBar (q : Quay) (x : List TxFrame) : (q.setPool x).grantBar = q.grantBar := rfl
@[simp] theorem setPool_freeCount (q : Quay) (x : List TxFrame) : (q.setPool x).freeCount = q.freeCount := rfl

/-! ## updPort -/

@[simp] theorem updPort_pins (q : Quay) (f : Port → Port) : (q.updPort f).pins = q.pins := rfl
@[simp] theorem updPort_profile (q : Quay) (f : Port → Port) : (q.updPort f).profile = q.profile := rfl
@[simp] theorem updPort_stage (q : Quay) (f : Port → Port) : (q.updPort f).stage = q.stage := rfl
@[simp] theorem updPort_loader (q : Quay) (f : Port → Port) : (q.updPort f).loader = q.loader := rfl
@[simp] theorem updPort_clock (q : Quay) (f : Port → Port) : (q.updPort f).clock = q.clock := rfl
@[simp] theorem updPort_bays (q : Quay) (f : Port → Port) : (q.updPort f).bays = q.bays := rfl
@[simp] theorem updPort_orders (q : Quay) (f : Port → Port) : (q.updPort f).orders = q.orders := rfl
@[simp] theorem updPort_assembly (q : Quay) (f : Port → Port) : (q.updPort f).assembly = q.assembly := rfl
@[simp] theorem updPort_freeList (q : Quay) (f : Port → Port) : (q.updPort f).freeList = q.freeList := rfl
@[simp] theorem updPort_moves (q : Quay) (f : Port → Port) : (q.updPort f).moves = q.moves := rfl
@[simp] theorem updPort_cranes (q : Quay) (f : Port → Port) : (q.updPort f).cranes = q.cranes := rfl
@[simp] theorem updPort_grantCounter (q : Quay) (f : Port → Port) : (q.updPort f).grantCounter = q.grantCounter := rfl
@[simp] theorem updPort_lanes (q : Quay) (f : Port → Port) : (q.updPort f).lanes = q.lanes := rfl
@[simp] theorem updPort_gangs (q : Quay) (f : Port → Port) : (q.updPort f).gangs = q.gangs := rfl
@[simp] theorem updPort_dispatch (q : Quay) (f : Port → Port) : (q.updPort f).dispatch = q.dispatch := rfl
@[simp] theorem updPort_stop (q : Quay) (f : Port → Port) : (q.updPort f).stop = q.stop := rfl
@[simp] theorem updPort_craneLink (q : Quay) (f : Port → Port) : (q.updPort f).craneLink = q.craneLink := rfl
@[simp] theorem updPort_laneLink (q : Quay) (f : Port → Port) : (q.updPort f).laneLink = q.laneLink := rfl
@[simp] theorem updPort_pool (q : Quay) (f : Port → Port) : (q.updPort f).pool = q.pool := rfl
@[simp] theorem updPort_port (q : Quay) (f : Port → Port) :
    (q.updPort f).port = f q.port := rfl
@[simp] theorem updPort_events (q : Quay) (f : Port → Port) : (q.updPort f).events = q.events := rfl
@[simp] theorem updPort_overflow (q : Quay) (f : Port → Port) : (q.updPort f).overflow = q.overflow := rfl
@[simp] theorem updPort_grantBar (q : Quay) (f : Port → Port) : (q.updPort f).grantBar = q.grantBar := rfl
@[simp] theorem updPort_freeCount (q : Quay) (f : Port → Port) : (q.updPort f).freeCount = q.freeCount := rfl

/-! ## setBar -/

@[simp] theorem setBar_pins (q : Quay) (c : Option Nat) : (q.setBar c).pins = q.pins := rfl
@[simp] theorem setBar_profile (q : Quay) (c : Option Nat) : (q.setBar c).profile = q.profile := rfl
@[simp] theorem setBar_stage (q : Quay) (c : Option Nat) : (q.setBar c).stage = q.stage := rfl
@[simp] theorem setBar_loader (q : Quay) (c : Option Nat) : (q.setBar c).loader = q.loader := rfl
@[simp] theorem setBar_clock (q : Quay) (c : Option Nat) : (q.setBar c).clock = q.clock := rfl
@[simp] theorem setBar_bays (q : Quay) (c : Option Nat) : (q.setBar c).bays = q.bays := rfl
@[simp] theorem setBar_orders (q : Quay) (c : Option Nat) : (q.setBar c).orders = q.orders := rfl
@[simp] theorem setBar_assembly (q : Quay) (c : Option Nat) : (q.setBar c).assembly = q.assembly := rfl
@[simp] theorem setBar_freeList (q : Quay) (c : Option Nat) : (q.setBar c).freeList = q.freeList := rfl
@[simp] theorem setBar_moves (q : Quay) (c : Option Nat) : (q.setBar c).moves = q.moves := rfl
@[simp] theorem setBar_cranes (q : Quay) (c : Option Nat) : (q.setBar c).cranes = q.cranes := rfl
@[simp] theorem setBar_grantCounter (q : Quay) (c : Option Nat) : (q.setBar c).grantCounter = q.grantCounter := rfl
@[simp] theorem setBar_lanes (q : Quay) (c : Option Nat) : (q.setBar c).lanes = q.lanes := rfl
@[simp] theorem setBar_gangs (q : Quay) (c : Option Nat) : (q.setBar c).gangs = q.gangs := rfl
@[simp] theorem setBar_dispatch (q : Quay) (c : Option Nat) : (q.setBar c).dispatch = q.dispatch := rfl
@[simp] theorem setBar_stop (q : Quay) (c : Option Nat) : (q.setBar c).stop = q.stop := rfl
@[simp] theorem setBar_craneLink (q : Quay) (c : Option Nat) : (q.setBar c).craneLink = q.craneLink := rfl
@[simp] theorem setBar_laneLink (q : Quay) (c : Option Nat) : (q.setBar c).laneLink = q.laneLink := rfl
@[simp] theorem setBar_pool (q : Quay) (c : Option Nat) : (q.setBar c).pool = q.pool := rfl
@[simp] theorem setBar_port (q : Quay) (c : Option Nat) : (q.setBar c).port = q.port := rfl
@[simp] theorem setBar_events (q : Quay) (c : Option Nat) : (q.setBar c).events = q.events := rfl
@[simp] theorem setBar_overflow (q : Quay) (c : Option Nat) : (q.setBar c).overflow = q.overflow := rfl
@[simp] theorem setBar_grantBar (q : Quay) (c : Option Nat) :
    (q.setBar c).grantBar = c := rfl
@[simp] theorem setBar_freeCount (q : Quay) (c : Option Nat) : (q.setBar c).freeCount = q.freeCount := rfl

/-! ## updBay -/

@[simp] theorem updBay_pins (q : Quay) (b : Nat) (f : Bay → Bay) : (q.updBay b f).pins = q.pins := rfl
@[simp] theorem updBay_profile (q : Quay) (b : Nat) (f : Bay → Bay) : (q.updBay b f).profile = q.profile := rfl
@[simp] theorem updBay_stage (q : Quay) (b : Nat) (f : Bay → Bay) : (q.updBay b f).stage = q.stage := rfl
@[simp] theorem updBay_loader (q : Quay) (b : Nat) (f : Bay → Bay) : (q.updBay b f).loader = q.loader := rfl
@[simp] theorem updBay_clock (q : Quay) (b : Nat) (f : Bay → Bay) : (q.updBay b f).clock = q.clock := rfl
@[simp] theorem updBay_bays (q : Quay) (b : Nat) (f : Bay → Bay) :
    (q.updBay b f).bays = (q.bays.map fun x => if x.num = b then f x else x) := rfl
@[simp] theorem updBay_orders (q : Quay) (b : Nat) (f : Bay → Bay) : (q.updBay b f).orders = q.orders := rfl
@[simp] theorem updBay_assembly (q : Quay) (b : Nat) (f : Bay → Bay) : (q.updBay b f).assembly = q.assembly := rfl
@[simp] theorem updBay_freeList (q : Quay) (b : Nat) (f : Bay → Bay) : (q.updBay b f).freeList = q.freeList := rfl
@[simp] theorem updBay_moves (q : Quay) (b : Nat) (f : Bay → Bay) : (q.updBay b f).moves = q.moves := rfl
@[simp] theorem updBay_cranes (q : Quay) (b : Nat) (f : Bay → Bay) : (q.updBay b f).cranes = q.cranes := rfl
@[simp] theorem updBay_grantCounter (q : Quay) (b : Nat) (f : Bay → Bay) : (q.updBay b f).grantCounter = q.grantCounter := rfl
@[simp] theorem updBay_lanes (q : Quay) (b : Nat) (f : Bay → Bay) : (q.updBay b f).lanes = q.lanes := rfl
@[simp] theorem updBay_gangs (q : Quay) (b : Nat) (f : Bay → Bay) : (q.updBay b f).gangs = q.gangs := rfl
@[simp] theorem updBay_dispatch (q : Quay) (b : Nat) (f : Bay → Bay) : (q.updBay b f).dispatch = q.dispatch := rfl
@[simp] theorem updBay_stop (q : Quay) (b : Nat) (f : Bay → Bay) : (q.updBay b f).stop = q.stop := rfl
@[simp] theorem updBay_craneLink (q : Quay) (b : Nat) (f : Bay → Bay) : (q.updBay b f).craneLink = q.craneLink := rfl
@[simp] theorem updBay_laneLink (q : Quay) (b : Nat) (f : Bay → Bay) : (q.updBay b f).laneLink = q.laneLink := rfl
@[simp] theorem updBay_pool (q : Quay) (b : Nat) (f : Bay → Bay) : (q.updBay b f).pool = q.pool := rfl
@[simp] theorem updBay_port (q : Quay) (b : Nat) (f : Bay → Bay) : (q.updBay b f).port = q.port := rfl
@[simp] theorem updBay_events (q : Quay) (b : Nat) (f : Bay → Bay) : (q.updBay b f).events = q.events := rfl
@[simp] theorem updBay_overflow (q : Quay) (b : Nat) (f : Bay → Bay) : (q.updBay b f).overflow = q.overflow := rfl
@[simp] theorem updBay_grantBar (q : Quay) (b : Nat) (f : Bay → Bay) : (q.updBay b f).grantBar = q.grantBar := rfl
@[simp] theorem updBay_freeCount (q : Quay) (b : Nat) (f : Bay → Bay) : (q.updBay b f).freeCount = q.freeCount := rfl

/-! ## updOrder -/

@[simp] theorem updOrder_pins (q : Quay) (n : Nat) (f : Order → Order) : (q.updOrder n f).pins = q.pins := rfl
@[simp] theorem updOrder_profile (q : Quay) (n : Nat) (f : Order → Order) : (q.updOrder n f).profile = q.profile := rfl
@[simp] theorem updOrder_stage (q : Quay) (n : Nat) (f : Order → Order) : (q.updOrder n f).stage = q.stage := rfl
@[simp] theorem updOrder_loader (q : Quay) (n : Nat) (f : Order → Order) : (q.updOrder n f).loader = q.loader := rfl
@[simp] theorem updOrder_clock (q : Quay) (n : Nat) (f : Order → Order) : (q.updOrder n f).clock = q.clock := rfl
@[simp] theorem updOrder_bays (q : Quay) (n : Nat) (f : Order → Order) : (q.updOrder n f).bays = q.bays := rfl
@[simp] theorem updOrder_orders (q : Quay) (n : Nat) (f : Order → Order) :
    (q.updOrder n f).orders = (q.orders.map fun x => if x.slot = n then f x else x) := rfl
@[simp] theorem updOrder_assembly (q : Quay) (n : Nat) (f : Order → Order) : (q.updOrder n f).assembly = q.assembly := rfl
@[simp] theorem updOrder_freeList (q : Quay) (n : Nat) (f : Order → Order) : (q.updOrder n f).freeList = q.freeList := rfl
@[simp] theorem updOrder_moves (q : Quay) (n : Nat) (f : Order → Order) : (q.updOrder n f).moves = q.moves := rfl
@[simp] theorem updOrder_cranes (q : Quay) (n : Nat) (f : Order → Order) : (q.updOrder n f).cranes = q.cranes := rfl
@[simp] theorem updOrder_grantCounter (q : Quay) (n : Nat) (f : Order → Order) : (q.updOrder n f).grantCounter = q.grantCounter := rfl
@[simp] theorem updOrder_lanes (q : Quay) (n : Nat) (f : Order → Order) : (q.updOrder n f).lanes = q.lanes := rfl
@[simp] theorem updOrder_gangs (q : Quay) (n : Nat) (f : Order → Order) : (q.updOrder n f).gangs = q.gangs := rfl
@[simp] theorem updOrder_dispatch (q : Quay) (n : Nat) (f : Order → Order) : (q.updOrder n f).dispatch = q.dispatch := rfl
@[simp] theorem updOrder_stop (q : Quay) (n : Nat) (f : Order → Order) : (q.updOrder n f).stop = q.stop := rfl
@[simp] theorem updOrder_craneLink (q : Quay) (n : Nat) (f : Order → Order) : (q.updOrder n f).craneLink = q.craneLink := rfl
@[simp] theorem updOrder_laneLink (q : Quay) (n : Nat) (f : Order → Order) : (q.updOrder n f).laneLink = q.laneLink := rfl
@[simp] theorem updOrder_pool (q : Quay) (n : Nat) (f : Order → Order) : (q.updOrder n f).pool = q.pool := rfl
@[simp] theorem updOrder_port (q : Quay) (n : Nat) (f : Order → Order) : (q.updOrder n f).port = q.port := rfl
@[simp] theorem updOrder_events (q : Quay) (n : Nat) (f : Order → Order) : (q.updOrder n f).events = q.events := rfl
@[simp] theorem updOrder_overflow (q : Quay) (n : Nat) (f : Order → Order) : (q.updOrder n f).overflow = q.overflow := rfl
@[simp] theorem updOrder_grantBar (q : Quay) (n : Nat) (f : Order → Order) : (q.updOrder n f).grantBar = q.grantBar := rfl
@[simp] theorem updOrder_freeCount (q : Quay) (n : Nat) (f : Order → Order) : (q.updOrder n f).freeCount = q.freeCount := rfl

/-! ## addOrder -/

@[simp] theorem addOrder_pins (q : Quay) (o : Order) : (q.addOrder o).pins = q.pins := rfl
@[simp] theorem addOrder_profile (q : Quay) (o : Order) : (q.addOrder o).profile = q.profile := rfl
@[simp] theorem addOrder_stage (q : Quay) (o : Order) : (q.addOrder o).stage = q.stage := rfl
@[simp] theorem addOrder_loader (q : Quay) (o : Order) : (q.addOrder o).loader = q.loader := rfl
@[simp] theorem addOrder_clock (q : Quay) (o : Order) : (q.addOrder o).clock = q.clock := rfl
@[simp] theorem addOrder_bays (q : Quay) (o : Order) : (q.addOrder o).bays = q.bays := rfl
@[simp] theorem addOrder_orders (q : Quay) (o : Order) :
    (q.addOrder o).orders = (insertBy (fun a b => a.slot ≤ b.slot) o q.orders) := rfl
@[simp] theorem addOrder_assembly (q : Quay) (o : Order) : (q.addOrder o).assembly = q.assembly := rfl
@[simp] theorem addOrder_freeList (q : Quay) (o : Order) : (q.addOrder o).freeList = q.freeList := rfl
@[simp] theorem addOrder_moves (q : Quay) (o : Order) : (q.addOrder o).moves = q.moves := rfl
@[simp] theorem addOrder_cranes (q : Quay) (o : Order) : (q.addOrder o).cranes = q.cranes := rfl
@[simp] theorem addOrder_grantCounter (q : Quay) (o : Order) : (q.addOrder o).grantCounter = q.grantCounter := rfl
@[simp] theorem addOrder_lanes (q : Quay) (o : Order) : (q.addOrder o).lanes = q.lanes := rfl
@[simp] theorem addOrder_gangs (q : Quay) (o : Order) : (q.addOrder o).gangs = q.gangs := rfl
@[simp] theorem addOrder_dispatch (q : Quay) (o : Order) : (q.addOrder o).dispatch = q.dispatch := rfl
@[simp] theorem addOrder_stop (q : Quay) (o : Order) : (q.addOrder o).stop = q.stop := rfl
@[simp] theorem addOrder_craneLink (q : Quay) (o : Order) : (q.addOrder o).craneLink = q.craneLink := rfl
@[simp] theorem addOrder_laneLink (q : Quay) (o : Order) : (q.addOrder o).laneLink = q.laneLink := rfl
@[simp] theorem addOrder_pool (q : Quay) (o : Order) : (q.addOrder o).pool = q.pool := rfl
@[simp] theorem addOrder_port (q : Quay) (o : Order) : (q.addOrder o).port = q.port := rfl
@[simp] theorem addOrder_events (q : Quay) (o : Order) : (q.addOrder o).events = q.events := rfl
@[simp] theorem addOrder_overflow (q : Quay) (o : Order) : (q.addOrder o).overflow = q.overflow := rfl
@[simp] theorem addOrder_grantBar (q : Quay) (o : Order) : (q.addOrder o).grantBar = q.grantBar := rfl
@[simp] theorem addOrder_freeCount (q : Quay) (o : Order) : (q.addOrder o).freeCount = q.freeCount := rfl

/-! ## dropOrder -/

@[simp] theorem dropOrder_pins (q : Quay) (n : Nat) : (q.dropOrder n).pins = q.pins := rfl
@[simp] theorem dropOrder_profile (q : Quay) (n : Nat) : (q.dropOrder n).profile = q.profile := rfl
@[simp] theorem dropOrder_stage (q : Quay) (n : Nat) : (q.dropOrder n).stage = q.stage := rfl
@[simp] theorem dropOrder_loader (q : Quay) (n : Nat) : (q.dropOrder n).loader = q.loader := rfl
@[simp] theorem dropOrder_clock (q : Quay) (n : Nat) : (q.dropOrder n).clock = q.clock := rfl
@[simp] theorem dropOrder_bays (q : Quay) (n : Nat) : (q.dropOrder n).bays = q.bays := rfl
@[simp] theorem dropOrder_orders (q : Quay) (n : Nat) :
    (q.dropOrder n).orders = (q.orders.filter fun x => x.slot ≠ n) := rfl
@[simp] theorem dropOrder_assembly (q : Quay) (n : Nat) : (q.dropOrder n).assembly = q.assembly := rfl
@[simp] theorem dropOrder_freeList (q : Quay) (n : Nat) : (q.dropOrder n).freeList = q.freeList := rfl
@[simp] theorem dropOrder_moves (q : Quay) (n : Nat) : (q.dropOrder n).moves = q.moves := rfl
@[simp] theorem dropOrder_cranes (q : Quay) (n : Nat) : (q.dropOrder n).cranes = q.cranes := rfl
@[simp] theorem dropOrder_grantCounter (q : Quay) (n : Nat) : (q.dropOrder n).grantCounter = q.grantCounter := rfl
@[simp] theorem dropOrder_lanes (q : Quay) (n : Nat) : (q.dropOrder n).lanes = q.lanes := rfl
@[simp] theorem dropOrder_gangs (q : Quay) (n : Nat) : (q.dropOrder n).gangs = q.gangs := rfl
@[simp] theorem dropOrder_dispatch (q : Quay) (n : Nat) : (q.dropOrder n).dispatch = q.dispatch := rfl
@[simp] theorem dropOrder_stop (q : Quay) (n : Nat) : (q.dropOrder n).stop = q.stop := rfl
@[simp] theorem dropOrder_craneLink (q : Quay) (n : Nat) : (q.dropOrder n).craneLink = q.craneLink := rfl
@[simp] theorem dropOrder_laneLink (q : Quay) (n : Nat) : (q.dropOrder n).laneLink = q.laneLink := rfl
@[simp] theorem dropOrder_pool (q : Quay) (n : Nat) : (q.dropOrder n).pool = q.pool := rfl
@[simp] theorem dropOrder_port (q : Quay) (n : Nat) : (q.dropOrder n).port = q.port := rfl
@[simp] theorem dropOrder_events (q : Quay) (n : Nat) : (q.dropOrder n).events = q.events := rfl
@[simp] theorem dropOrder_overflow (q : Quay) (n : Nat) : (q.dropOrder n).overflow = q.overflow := rfl
@[simp] theorem dropOrder_grantBar (q : Quay) (n : Nat) : (q.dropOrder n).grantBar = q.grantBar := rfl
@[simp] theorem dropOrder_freeCount (q : Quay) (n : Nat) : (q.dropOrder n).freeCount = q.freeCount := rfl

/-! ## updMove -/

@[simp] theorem updMove_pins (q : Quay) (n : Nat) (f : Move → Move) : (q.updMove n f).pins = q.pins := rfl
@[simp] theorem updMove_profile (q : Quay) (n : Nat) (f : Move → Move) : (q.updMove n f).profile = q.profile := rfl
@[simp] theorem updMove_stage (q : Quay) (n : Nat) (f : Move → Move) : (q.updMove n f).stage = q.stage := rfl
@[simp] theorem updMove_loader (q : Quay) (n : Nat) (f : Move → Move) : (q.updMove n f).loader = q.loader := rfl
@[simp] theorem updMove_clock (q : Quay) (n : Nat) (f : Move → Move) : (q.updMove n f).clock = q.clock := rfl
@[simp] theorem updMove_bays (q : Quay) (n : Nat) (f : Move → Move) : (q.updMove n f).bays = q.bays := rfl
@[simp] theorem updMove_orders (q : Quay) (n : Nat) (f : Move → Move) : (q.updMove n f).orders = q.orders := rfl
@[simp] theorem updMove_assembly (q : Quay) (n : Nat) (f : Move → Move) : (q.updMove n f).assembly = q.assembly := rfl
@[simp] theorem updMove_freeList (q : Quay) (n : Nat) (f : Move → Move) : (q.updMove n f).freeList = q.freeList := rfl
@[simp] theorem updMove_moves (q : Quay) (n : Nat) (f : Move → Move) :
    (q.updMove n f).moves = (q.moves.map fun x => if x.num = n then f x else x) := rfl
@[simp] theorem updMove_cranes (q : Quay) (n : Nat) (f : Move → Move) : (q.updMove n f).cranes = q.cranes := rfl
@[simp] theorem updMove_grantCounter (q : Quay) (n : Nat) (f : Move → Move) : (q.updMove n f).grantCounter = q.grantCounter := rfl
@[simp] theorem updMove_lanes (q : Quay) (n : Nat) (f : Move → Move) : (q.updMove n f).lanes = q.lanes := rfl
@[simp] theorem updMove_gangs (q : Quay) (n : Nat) (f : Move → Move) : (q.updMove n f).gangs = q.gangs := rfl
@[simp] theorem updMove_dispatch (q : Quay) (n : Nat) (f : Move → Move) : (q.updMove n f).dispatch = q.dispatch := rfl
@[simp] theorem updMove_stop (q : Quay) (n : Nat) (f : Move → Move) : (q.updMove n f).stop = q.stop := rfl
@[simp] theorem updMove_craneLink (q : Quay) (n : Nat) (f : Move → Move) : (q.updMove n f).craneLink = q.craneLink := rfl
@[simp] theorem updMove_laneLink (q : Quay) (n : Nat) (f : Move → Move) : (q.updMove n f).laneLink = q.laneLink := rfl
@[simp] theorem updMove_pool (q : Quay) (n : Nat) (f : Move → Move) : (q.updMove n f).pool = q.pool := rfl
@[simp] theorem updMove_port (q : Quay) (n : Nat) (f : Move → Move) : (q.updMove n f).port = q.port := rfl
@[simp] theorem updMove_events (q : Quay) (n : Nat) (f : Move → Move) : (q.updMove n f).events = q.events := rfl
@[simp] theorem updMove_overflow (q : Quay) (n : Nat) (f : Move → Move) : (q.updMove n f).overflow = q.overflow := rfl
@[simp] theorem updMove_grantBar (q : Quay) (n : Nat) (f : Move → Move) : (q.updMove n f).grantBar = q.grantBar := rfl
@[simp] theorem updMove_freeCount (q : Quay) (n : Nat) (f : Move → Move) : (q.updMove n f).freeCount = q.freeCount := rfl

/-! ## addMove -/

@[simp] theorem addMove_pins (q : Quay) (m : Move) : (q.addMove m).pins = q.pins := rfl
@[simp] theorem addMove_profile (q : Quay) (m : Move) : (q.addMove m).profile = q.profile := rfl
@[simp] theorem addMove_stage (q : Quay) (m : Move) : (q.addMove m).stage = q.stage := rfl
@[simp] theorem addMove_loader (q : Quay) (m : Move) : (q.addMove m).loader = q.loader := rfl
@[simp] theorem addMove_clock (q : Quay) (m : Move) : (q.addMove m).clock = q.clock := rfl
@[simp] theorem addMove_bays (q : Quay) (m : Move) : (q.addMove m).bays = q.bays := rfl
@[simp] theorem addMove_orders (q : Quay) (m : Move) : (q.addMove m).orders = q.orders := rfl
@[simp] theorem addMove_assembly (q : Quay) (m : Move) : (q.addMove m).assembly = q.assembly := rfl
@[simp] theorem addMove_freeList (q : Quay) (m : Move) : (q.addMove m).freeList = q.freeList := rfl
@[simp] theorem addMove_moves (q : Quay) (m : Move) :
    (q.addMove m).moves = (insertBy (fun a b => a.num ≤ b.num) m q.moves) := rfl
@[simp] theorem addMove_cranes (q : Quay) (m : Move) : (q.addMove m).cranes = q.cranes := rfl
@[simp] theorem addMove_grantCounter (q : Quay) (m : Move) : (q.addMove m).grantCounter = q.grantCounter := rfl
@[simp] theorem addMove_lanes (q : Quay) (m : Move) : (q.addMove m).lanes = q.lanes := rfl
@[simp] theorem addMove_gangs (q : Quay) (m : Move) : (q.addMove m).gangs = q.gangs := rfl
@[simp] theorem addMove_dispatch (q : Quay) (m : Move) : (q.addMove m).dispatch = q.dispatch := rfl
@[simp] theorem addMove_stop (q : Quay) (m : Move) : (q.addMove m).stop = q.stop := rfl
@[simp] theorem addMove_craneLink (q : Quay) (m : Move) : (q.addMove m).craneLink = q.craneLink := rfl
@[simp] theorem addMove_laneLink (q : Quay) (m : Move) : (q.addMove m).laneLink = q.laneLink := rfl
@[simp] theorem addMove_pool (q : Quay) (m : Move) : (q.addMove m).pool = q.pool := rfl
@[simp] theorem addMove_port (q : Quay) (m : Move) : (q.addMove m).port = q.port := rfl
@[simp] theorem addMove_events (q : Quay) (m : Move) : (q.addMove m).events = q.events := rfl
@[simp] theorem addMove_overflow (q : Quay) (m : Move) : (q.addMove m).overflow = q.overflow := rfl
@[simp] theorem addMove_grantBar (q : Quay) (m : Move) : (q.addMove m).grantBar = q.grantBar := rfl
@[simp] theorem addMove_freeCount (q : Quay) (m : Move) : (q.addMove m).freeCount = q.freeCount := rfl

/-! ## freeMove -/

@[simp] theorem freeMove_pins (q : Quay) (n : Nat) : (q.freeMove n).pins = q.pins := rfl
@[simp] theorem freeMove_profile (q : Quay) (n : Nat) : (q.freeMove n).profile = q.profile := rfl
@[simp] theorem freeMove_stage (q : Quay) (n : Nat) : (q.freeMove n).stage = q.stage := rfl
@[simp] theorem freeMove_loader (q : Quay) (n : Nat) : (q.freeMove n).loader = q.loader := rfl
@[simp] theorem freeMove_clock (q : Quay) (n : Nat) : (q.freeMove n).clock = q.clock := rfl
@[simp] theorem freeMove_bays (q : Quay) (n : Nat) : (q.freeMove n).bays = q.bays := rfl
@[simp] theorem freeMove_orders (q : Quay) (n : Nat) : (q.freeMove n).orders = q.orders := rfl
@[simp] theorem freeMove_assembly (q : Quay) (n : Nat) : (q.freeMove n).assembly = q.assembly := rfl
@[simp] theorem freeMove_freeList (q : Quay) (n : Nat) :
    (q.freeMove n).freeList = q.freeList ++ [n] := rfl
@[simp] theorem freeMove_moves (q : Quay) (n : Nat) :
    (q.freeMove n).moves = (q.moves.filter fun x => x.num ≠ n) := rfl
@[simp] theorem freeMove_cranes (q : Quay) (n : Nat) : (q.freeMove n).cranes = q.cranes := rfl
@[simp] theorem freeMove_grantCounter (q : Quay) (n : Nat) : (q.freeMove n).grantCounter = q.grantCounter := rfl
@[simp] theorem freeMove_lanes (q : Quay) (n : Nat) : (q.freeMove n).lanes = q.lanes := rfl
@[simp] theorem freeMove_gangs (q : Quay) (n : Nat) : (q.freeMove n).gangs = q.gangs := rfl
@[simp] theorem freeMove_dispatch (q : Quay) (n : Nat) : (q.freeMove n).dispatch = q.dispatch := rfl
@[simp] theorem freeMove_stop (q : Quay) (n : Nat) : (q.freeMove n).stop = q.stop := rfl
@[simp] theorem freeMove_craneLink (q : Quay) (n : Nat) : (q.freeMove n).craneLink = q.craneLink := rfl
@[simp] theorem freeMove_laneLink (q : Quay) (n : Nat) : (q.freeMove n).laneLink = q.laneLink := rfl
@[simp] theorem freeMove_pool (q : Quay) (n : Nat) : (q.freeMove n).pool = q.pool := rfl
@[simp] theorem freeMove_port (q : Quay) (n : Nat) : (q.freeMove n).port = q.port := rfl
@[simp] theorem freeMove_events (q : Quay) (n : Nat) : (q.freeMove n).events = q.events := rfl
@[simp] theorem freeMove_overflow (q : Quay) (n : Nat) : (q.freeMove n).overflow = q.overflow := rfl
@[simp] theorem freeMove_grantBar (q : Quay) (n : Nat) : (q.freeMove n).grantBar = q.grantBar := rfl
@[simp] theorem freeMove_freeCount (q : Quay) (n : Nat) : (q.freeMove n).freeCount = q.freeCount := rfl

/-! ## updCrane -/

@[simp] theorem updCrane_pins (q : Quay) (c : Nat) (f : Crane → Crane) : (q.updCrane c f).pins = q.pins := rfl
@[simp] theorem updCrane_profile (q : Quay) (c : Nat) (f : Crane → Crane) : (q.updCrane c f).profile = q.profile := rfl
@[simp] theorem updCrane_stage (q : Quay) (c : Nat) (f : Crane → Crane) : (q.updCrane c f).stage = q.stage := rfl
@[simp] theorem updCrane_loader (q : Quay) (c : Nat) (f : Crane → Crane) : (q.updCrane c f).loader = q.loader := rfl
@[simp] theorem updCrane_clock (q : Quay) (c : Nat) (f : Crane → Crane) : (q.updCrane c f).clock = q.clock := rfl
@[simp] theorem updCrane_bays (q : Quay) (c : Nat) (f : Crane → Crane) : (q.updCrane c f).bays = q.bays := rfl
@[simp] theorem updCrane_orders (q : Quay) (c : Nat) (f : Crane → Crane) : (q.updCrane c f).orders = q.orders := rfl
@[simp] theorem updCrane_assembly (q : Quay) (c : Nat) (f : Crane → Crane) : (q.updCrane c f).assembly = q.assembly := rfl
@[simp] theorem updCrane_freeList (q : Quay) (c : Nat) (f : Crane → Crane) : (q.updCrane c f).freeList = q.freeList := rfl
@[simp] theorem updCrane_moves (q : Quay) (c : Nat) (f : Crane → Crane) : (q.updCrane c f).moves = q.moves := rfl
@[simp] theorem updCrane_cranes (q : Quay) (c : Nat) (f : Crane → Crane) :
    (q.updCrane c f).cranes = (q.cranes.map fun x => if x.num = c then f x else x) := rfl
@[simp] theorem updCrane_grantCounter (q : Quay) (c : Nat) (f : Crane → Crane) : (q.updCrane c f).grantCounter = q.grantCounter := rfl
@[simp] theorem updCrane_lanes (q : Quay) (c : Nat) (f : Crane → Crane) : (q.updCrane c f).lanes = q.lanes := rfl
@[simp] theorem updCrane_gangs (q : Quay) (c : Nat) (f : Crane → Crane) : (q.updCrane c f).gangs = q.gangs := rfl
@[simp] theorem updCrane_dispatch (q : Quay) (c : Nat) (f : Crane → Crane) : (q.updCrane c f).dispatch = q.dispatch := rfl
@[simp] theorem updCrane_stop (q : Quay) (c : Nat) (f : Crane → Crane) : (q.updCrane c f).stop = q.stop := rfl
@[simp] theorem updCrane_craneLink (q : Quay) (c : Nat) (f : Crane → Crane) : (q.updCrane c f).craneLink = q.craneLink := rfl
@[simp] theorem updCrane_laneLink (q : Quay) (c : Nat) (f : Crane → Crane) : (q.updCrane c f).laneLink = q.laneLink := rfl
@[simp] theorem updCrane_pool (q : Quay) (c : Nat) (f : Crane → Crane) : (q.updCrane c f).pool = q.pool := rfl
@[simp] theorem updCrane_port (q : Quay) (c : Nat) (f : Crane → Crane) : (q.updCrane c f).port = q.port := rfl
@[simp] theorem updCrane_events (q : Quay) (c : Nat) (f : Crane → Crane) : (q.updCrane c f).events = q.events := rfl
@[simp] theorem updCrane_overflow (q : Quay) (c : Nat) (f : Crane → Crane) : (q.updCrane c f).overflow = q.overflow := rfl
@[simp] theorem updCrane_grantBar (q : Quay) (c : Nat) (f : Crane → Crane) : (q.updCrane c f).grantBar = q.grantBar := rfl
@[simp] theorem updCrane_freeCount (q : Quay) (c : Nat) (f : Crane → Crane) : (q.updCrane c f).freeCount = q.freeCount := rfl

/-! ## updLane -/

@[simp] theorem updLane_pins (q : Quay) (p : Nat) (f : Lane → Lane) : (q.updLane p f).pins = q.pins := rfl
@[simp] theorem updLane_profile (q : Quay) (p : Nat) (f : Lane → Lane) : (q.updLane p f).profile = q.profile := rfl
@[simp] theorem updLane_stage (q : Quay) (p : Nat) (f : Lane → Lane) : (q.updLane p f).stage = q.stage := rfl
@[simp] theorem updLane_loader (q : Quay) (p : Nat) (f : Lane → Lane) : (q.updLane p f).loader = q.loader := rfl
@[simp] theorem updLane_clock (q : Quay) (p : Nat) (f : Lane → Lane) : (q.updLane p f).clock = q.clock := rfl
@[simp] theorem updLane_bays (q : Quay) (p : Nat) (f : Lane → Lane) : (q.updLane p f).bays = q.bays := rfl
@[simp] theorem updLane_orders (q : Quay) (p : Nat) (f : Lane → Lane) : (q.updLane p f).orders = q.orders := rfl
@[simp] theorem updLane_assembly (q : Quay) (p : Nat) (f : Lane → Lane) : (q.updLane p f).assembly = q.assembly := rfl
@[simp] theorem updLane_freeList (q : Quay) (p : Nat) (f : Lane → Lane) : (q.updLane p f).freeList = q.freeList := rfl
@[simp] theorem updLane_moves (q : Quay) (p : Nat) (f : Lane → Lane) : (q.updLane p f).moves = q.moves := rfl
@[simp] theorem updLane_cranes (q : Quay) (p : Nat) (f : Lane → Lane) : (q.updLane p f).cranes = q.cranes := rfl
@[simp] theorem updLane_grantCounter (q : Quay) (p : Nat) (f : Lane → Lane) : (q.updLane p f).grantCounter = q.grantCounter := rfl
@[simp] theorem updLane_lanes (q : Quay) (p : Nat) (f : Lane → Lane) :
    (q.updLane p f).lanes = (q.lanes.map fun x => if x.phys = p then f x else x) := rfl
@[simp] theorem updLane_gangs (q : Quay) (p : Nat) (f : Lane → Lane) : (q.updLane p f).gangs = q.gangs := rfl
@[simp] theorem updLane_dispatch (q : Quay) (p : Nat) (f : Lane → Lane) : (q.updLane p f).dispatch = q.dispatch := rfl
@[simp] theorem updLane_stop (q : Quay) (p : Nat) (f : Lane → Lane) : (q.updLane p f).stop = q.stop := rfl
@[simp] theorem updLane_craneLink (q : Quay) (p : Nat) (f : Lane → Lane) : (q.updLane p f).craneLink = q.craneLink := rfl
@[simp] theorem updLane_laneLink (q : Quay) (p : Nat) (f : Lane → Lane) : (q.updLane p f).laneLink = q.laneLink := rfl
@[simp] theorem updLane_pool (q : Quay) (p : Nat) (f : Lane → Lane) : (q.updLane p f).pool = q.pool := rfl
@[simp] theorem updLane_port (q : Quay) (p : Nat) (f : Lane → Lane) : (q.updLane p f).port = q.port := rfl
@[simp] theorem updLane_events (q : Quay) (p : Nat) (f : Lane → Lane) : (q.updLane p f).events = q.events := rfl
@[simp] theorem updLane_overflow (q : Quay) (p : Nat) (f : Lane → Lane) : (q.updLane p f).overflow = q.overflow := rfl
@[simp] theorem updLane_grantBar (q : Quay) (p : Nat) (f : Lane → Lane) : (q.updLane p f).grantBar = q.grantBar := rfl
@[simp] theorem updLane_freeCount (q : Quay) (p : Nat) (f : Lane → Lane) : (q.updLane p f).freeCount = q.freeCount := rfl

/-! ## updTruck -/

@[simp] theorem updTruck_pins (q : Quay) (g : Word16) (f : Truck → Truck) : (q.updTruck g f).pins = q.pins := rfl
@[simp] theorem updTruck_profile (q : Quay) (g : Word16) (f : Truck → Truck) : (q.updTruck g f).profile = q.profile := rfl
@[simp] theorem updTruck_stage (q : Quay) (g : Word16) (f : Truck → Truck) : (q.updTruck g f).stage = q.stage := rfl
@[simp] theorem updTruck_loader (q : Quay) (g : Word16) (f : Truck → Truck) : (q.updTruck g f).loader = q.loader := rfl
@[simp] theorem updTruck_clock (q : Quay) (g : Word16) (f : Truck → Truck) : (q.updTruck g f).clock = q.clock := rfl
@[simp] theorem updTruck_bays (q : Quay) (g : Word16) (f : Truck → Truck) : (q.updTruck g f).bays = q.bays := rfl
@[simp] theorem updTruck_orders (q : Quay) (g : Word16) (f : Truck → Truck) : (q.updTruck g f).orders = q.orders := rfl
@[simp] theorem updTruck_assembly (q : Quay) (g : Word16) (f : Truck → Truck) : (q.updTruck g f).assembly = q.assembly := rfl
@[simp] theorem updTruck_freeList (q : Quay) (g : Word16) (f : Truck → Truck) : (q.updTruck g f).freeList = q.freeList := rfl
@[simp] theorem updTruck_moves (q : Quay) (g : Word16) (f : Truck → Truck) : (q.updTruck g f).moves = q.moves := rfl
@[simp] theorem updTruck_cranes (q : Quay) (g : Word16) (f : Truck → Truck) : (q.updTruck g f).cranes = q.cranes := rfl
@[simp] theorem updTruck_grantCounter (q : Quay) (g : Word16) (f : Truck → Truck) : (q.updTruck g f).grantCounter = q.grantCounter := rfl
@[simp] theorem updTruck_lanes (q : Quay) (g : Word16) (f : Truck → Truck) :
    (q.updTruck g f).lanes = (q.lanes.map fun l => { l with fifo := l.fifo.map fun t => if t.tag = g then f t else t }) := rfl
@[simp] theorem updTruck_gangs (q : Quay) (g : Word16) (f : Truck → Truck) : (q.updTruck g f).gangs = q.gangs := rfl
@[simp] theorem updTruck_dispatch (q : Quay) (g : Word16) (f : Truck → Truck) : (q.updTruck g f).dispatch = q.dispatch := rfl
@[simp] theorem updTruck_stop (q : Quay) (g : Word16) (f : Truck → Truck) : (q.updTruck g f).stop = q.stop := rfl
@[simp] theorem updTruck_craneLink (q : Quay) (g : Word16) (f : Truck → Truck) : (q.updTruck g f).craneLink = q.craneLink := rfl
@[simp] theorem updTruck_laneLink (q : Quay) (g : Word16) (f : Truck → Truck) : (q.updTruck g f).laneLink = q.laneLink := rfl
@[simp] theorem updTruck_pool (q : Quay) (g : Word16) (f : Truck → Truck) : (q.updTruck g f).pool = q.pool := rfl
@[simp] theorem updTruck_port (q : Quay) (g : Word16) (f : Truck → Truck) : (q.updTruck g f).port = q.port := rfl
@[simp] theorem updTruck_events (q : Quay) (g : Word16) (f : Truck → Truck) : (q.updTruck g f).events = q.events := rfl
@[simp] theorem updTruck_overflow (q : Quay) (g : Word16) (f : Truck → Truck) : (q.updTruck g f).overflow = q.overflow := rfl
@[simp] theorem updTruck_grantBar (q : Quay) (g : Word16) (f : Truck → Truck) : (q.updTruck g f).grantBar = q.grantBar := rfl
@[simp] theorem updTruck_freeCount (q : Quay) (g : Word16) (f : Truck → Truck) : (q.updTruck g f).freeCount = q.freeCount := rfl

/-! ## updGang -/

@[simp] theorem updGang_pins (q : Quay) (g : Nat) (f : Gang → Gang) : (q.updGang g f).pins = q.pins := rfl
@[simp] theorem updGang_profile (q : Quay) (g : Nat) (f : Gang → Gang) : (q.updGang g f).profile = q.profile := rfl
@[simp] theorem updGang_stage (q : Quay) (g : Nat) (f : Gang → Gang) : (q.updGang g f).stage = q.stage := rfl
@[simp] theorem updGang_loader (q : Quay) (g : Nat) (f : Gang → Gang) : (q.updGang g f).loader = q.loader := rfl
@[simp] theorem updGang_clock (q : Quay) (g : Nat) (f : Gang → Gang) : (q.updGang g f).clock = q.clock := rfl
@[simp] theorem updGang_bays (q : Quay) (g : Nat) (f : Gang → Gang) : (q.updGang g f).bays = q.bays := rfl
@[simp] theorem updGang_orders (q : Quay) (g : Nat) (f : Gang → Gang) : (q.updGang g f).orders = q.orders := rfl
@[simp] theorem updGang_assembly (q : Quay) (g : Nat) (f : Gang → Gang) : (q.updGang g f).assembly = q.assembly := rfl
@[simp] theorem updGang_freeList (q : Quay) (g : Nat) (f : Gang → Gang) : (q.updGang g f).freeList = q.freeList := rfl
@[simp] theorem updGang_moves (q : Quay) (g : Nat) (f : Gang → Gang) : (q.updGang g f).moves = q.moves := rfl
@[simp] theorem updGang_cranes (q : Quay) (g : Nat) (f : Gang → Gang) : (q.updGang g f).cranes = q.cranes := rfl
@[simp] theorem updGang_grantCounter (q : Quay) (g : Nat) (f : Gang → Gang) : (q.updGang g f).grantCounter = q.grantCounter := rfl
@[simp] theorem updGang_lanes (q : Quay) (g : Nat) (f : Gang → Gang) : (q.updGang g f).lanes = q.lanes := rfl
@[simp] theorem updGang_gangs (q : Quay) (g : Nat) (f : Gang → Gang) :
    (q.updGang g f).gangs = (q.gangs.map fun x => if x.num = g then f x else x) := rfl
@[simp] theorem updGang_dispatch (q : Quay) (g : Nat) (f : Gang → Gang) : (q.updGang g f).dispatch = q.dispatch := rfl
@[simp] theorem updGang_stop (q : Quay) (g : Nat) (f : Gang → Gang) : (q.updGang g f).stop = q.stop := rfl
@[simp] theorem updGang_craneLink (q : Quay) (g : Nat) (f : Gang → Gang) : (q.updGang g f).craneLink = q.craneLink := rfl
@[simp] theorem updGang_laneLink (q : Quay) (g : Nat) (f : Gang → Gang) : (q.updGang g f).laneLink = q.laneLink := rfl
@[simp] theorem updGang_pool (q : Quay) (g : Nat) (f : Gang → Gang) : (q.updGang g f).pool = q.pool := rfl
@[simp] theorem updGang_port (q : Quay) (g : Nat) (f : Gang → Gang) : (q.updGang g f).port = q.port := rfl
@[simp] theorem updGang_events (q : Quay) (g : Nat) (f : Gang → Gang) : (q.updGang g f).events = q.events := rfl
@[simp] theorem updGang_overflow (q : Quay) (g : Nat) (f : Gang → Gang) : (q.updGang g f).overflow = q.overflow := rfl
@[simp] theorem updGang_grantBar (q : Quay) (g : Nat) (f : Gang → Gang) : (q.updGang g f).grantBar = q.grantBar := rfl
@[simp] theorem updGang_freeCount (q : Quay) (g : Nat) (f : Gang → Gang) : (q.updGang g f).freeCount = q.freeCount := rfl

/-! ## post -/

@[simp] theorem post_pins (q : Quay) (p : Posting) : (q.post p).pins = q.pins := rfl
@[simp] theorem post_profile (q : Quay) (p : Posting) : (q.post p).profile = q.profile := rfl
@[simp] theorem post_stage (q : Quay) (p : Posting) : (q.post p).stage = q.stage := rfl
@[simp] theorem post_loader (q : Quay) (p : Posting) : (q.post p).loader = q.loader := rfl
@[simp] theorem post_clock (q : Quay) (p : Posting) : (q.post p).clock = q.clock := rfl
@[simp] theorem post_bays (q : Quay) (p : Posting) : (q.post p).bays = q.bays := rfl
@[simp] theorem post_orders (q : Quay) (p : Posting) : (q.post p).orders = q.orders := rfl
@[simp] theorem post_assembly (q : Quay) (p : Posting) : (q.post p).assembly = q.assembly := rfl
@[simp] theorem post_freeList (q : Quay) (p : Posting) : (q.post p).freeList = q.freeList := rfl
@[simp] theorem post_moves (q : Quay) (p : Posting) : (q.post p).moves = q.moves := rfl
@[simp] theorem post_cranes (q : Quay) (p : Posting) : (q.post p).cranes = q.cranes := rfl
@[simp] theorem post_grantCounter (q : Quay) (p : Posting) : (q.post p).grantCounter = q.grantCounter := rfl
@[simp] theorem post_lanes (q : Quay) (p : Posting) : (q.post p).lanes = q.lanes := rfl
@[simp] theorem post_gangs (q : Quay) (p : Posting) : (q.post p).gangs = q.gangs := rfl
@[simp] theorem post_dispatch (q : Quay) (p : Posting) : (q.post p).dispatch = q.dispatch := rfl
@[simp] theorem post_stop (q : Quay) (p : Posting) : (q.post p).stop = q.stop := rfl
@[simp] theorem post_craneLink (q : Quay) (p : Posting) : (q.post p).craneLink = q.craneLink := rfl
@[simp] theorem post_laneLink (q : Quay) (p : Posting) : (q.post p).laneLink = q.laneLink := rfl
@[simp] theorem post_pool (q : Quay) (p : Posting) : (q.post p).pool = q.pool := rfl
@[simp] theorem post_port (q : Quay) (p : Posting) : (q.post p).port = q.port := rfl
@[simp] theorem post_grantBar (q : Quay) (p : Posting) : (q.post p).grantBar = q.grantBar := rfl
@[simp] theorem post_freeCount (q : Quay) (p : Posting) : (q.post p).freeCount = q.freeCount := rfl

/-! ## enqueue -/

@[simp] theorem enqueue_pins (q : Quay) (l : Link) (d : Nat) (m : TxMsg) : (q.enqueue l d m).pins = q.pins := rfl
@[simp] theorem enqueue_profile (q : Quay) (l : Link) (d : Nat) (m : TxMsg) : (q.enqueue l d m).profile = q.profile := rfl
@[simp] theorem enqueue_stage (q : Quay) (l : Link) (d : Nat) (m : TxMsg) : (q.enqueue l d m).stage = q.stage := rfl
@[simp] theorem enqueue_loader (q : Quay) (l : Link) (d : Nat) (m : TxMsg) : (q.enqueue l d m).loader = q.loader := rfl
@[simp] theorem enqueue_clock (q : Quay) (l : Link) (d : Nat) (m : TxMsg) : (q.enqueue l d m).clock = q.clock := rfl
@[simp] theorem enqueue_bays (q : Quay) (l : Link) (d : Nat) (m : TxMsg) : (q.enqueue l d m).bays = q.bays := rfl
@[simp] theorem enqueue_orders (q : Quay) (l : Link) (d : Nat) (m : TxMsg) : (q.enqueue l d m).orders = q.orders := rfl
@[simp] theorem enqueue_assembly (q : Quay) (l : Link) (d : Nat) (m : TxMsg) : (q.enqueue l d m).assembly = q.assembly := rfl
@[simp] theorem enqueue_freeList (q : Quay) (l : Link) (d : Nat) (m : TxMsg) : (q.enqueue l d m).freeList = q.freeList := rfl
@[simp] theorem enqueue_moves (q : Quay) (l : Link) (d : Nat) (m : TxMsg) : (q.enqueue l d m).moves = q.moves := rfl
@[simp] theorem enqueue_cranes (q : Quay) (l : Link) (d : Nat) (m : TxMsg) : (q.enqueue l d m).cranes = q.cranes := rfl
@[simp] theorem enqueue_grantCounter (q : Quay) (l : Link) (d : Nat) (m : TxMsg) : (q.enqueue l d m).grantCounter = q.grantCounter := rfl
@[simp] theorem enqueue_lanes (q : Quay) (l : Link) (d : Nat) (m : TxMsg) : (q.enqueue l d m).lanes = q.lanes := rfl
@[simp] theorem enqueue_gangs (q : Quay) (l : Link) (d : Nat) (m : TxMsg) : (q.enqueue l d m).gangs = q.gangs := rfl
@[simp] theorem enqueue_dispatch (q : Quay) (l : Link) (d : Nat) (m : TxMsg) : (q.enqueue l d m).dispatch = q.dispatch := rfl
@[simp] theorem enqueue_stop (q : Quay) (l : Link) (d : Nat) (m : TxMsg) : (q.enqueue l d m).stop = q.stop := rfl
@[simp] theorem enqueue_craneLink (q : Quay) (l : Link) (d : Nat) (m : TxMsg) : (q.enqueue l d m).craneLink = q.craneLink := rfl
@[simp] theorem enqueue_laneLink (q : Quay) (l : Link) (d : Nat) (m : TxMsg) : (q.enqueue l d m).laneLink = q.laneLink := rfl
@[simp] theorem enqueue_pool (q : Quay) (l : Link) (d : Nat) (m : TxMsg) :
    (q.enqueue l d m).pool = q.pool ++ [{ link := l, dest := d, msg := m, fails := 0, begun := false }] := rfl
@[simp] theorem enqueue_port (q : Quay) (l : Link) (d : Nat) (m : TxMsg) : (q.enqueue l d m).port = q.port := rfl
@[simp] theorem enqueue_events (q : Quay) (l : Link) (d : Nat) (m : TxMsg) : (q.enqueue l d m).events = q.events := rfl
@[simp] theorem enqueue_overflow (q : Quay) (l : Link) (d : Nat) (m : TxMsg) : (q.enqueue l d m).overflow = q.overflow := rfl
@[simp] theorem enqueue_grantBar (q : Quay) (l : Link) (d : Nat) (m : TxMsg) : (q.enqueue l d m).grantBar = q.grantBar := rfl
@[simp] theorem enqueue_freeCount (q : Quay) (l : Link) (d : Nat) (m : TxMsg) : (q.enqueue l d m).freeCount = q.freeCount := rfl

/-! ## countFree -/

@[simp] theorem countFree_pins (q : Quay) : (q.countFree).pins = q.pins := rfl
@[simp] theorem countFree_profile (q : Quay) : (q.countFree).profile = q.profile := rfl
@[simp] theorem countFree_stage (q : Quay) : (q.countFree).stage = q.stage := rfl
@[simp] theorem countFree_loader (q : Quay) : (q.countFree).loader = q.loader := rfl
@[simp] theorem countFree_clock (q : Quay) : (q.countFree).clock = q.clock := rfl
@[simp] theorem countFree_bays (q : Quay) : (q.countFree).bays = q.bays := rfl
@[simp] theorem countFree_orders (q : Quay) : (q.countFree).orders = q.orders := rfl
@[simp] theorem countFree_assembly (q : Quay) : (q.countFree).assembly = q.assembly := rfl
@[simp] theorem countFree_freeList (q : Quay) : (q.countFree).freeList = q.freeList := rfl
@[simp] theorem countFree_moves (q : Quay) : (q.countFree).moves = q.moves := rfl
@[simp] theorem countFree_cranes (q : Quay) : (q.countFree).cranes = q.cranes := rfl
@[simp] theorem countFree_grantCounter (q : Quay) : (q.countFree).grantCounter = q.grantCounter := rfl
@[simp] theorem countFree_lanes (q : Quay) : (q.countFree).lanes = q.lanes := rfl
@[simp] theorem countFree_gangs (q : Quay) : (q.countFree).gangs = q.gangs := rfl
@[simp] theorem countFree_dispatch (q : Quay) : (q.countFree).dispatch = q.dispatch := rfl
@[simp] theorem countFree_stop (q : Quay) : (q.countFree).stop = q.stop := rfl
@[simp] theorem countFree_craneLink (q : Quay) : (q.countFree).craneLink = q.craneLink := rfl
@[simp] theorem countFree_laneLink (q : Quay) : (q.countFree).laneLink = q.laneLink := rfl
@[simp] theorem countFree_pool (q : Quay) : (q.countFree).pool = q.pool := rfl
@[simp] theorem countFree_port (q : Quay) : (q.countFree).port = q.port := rfl
@[simp] theorem countFree_events (q : Quay) : (q.countFree).events = q.events := rfl
@[simp] theorem countFree_overflow (q : Quay) : (q.countFree).overflow = q.overflow := rfl
@[simp] theorem countFree_grantBar (q : Quay) : (q.countFree).grantBar = q.grantBar := rfl
@[simp] theorem countFree_freeCount (q : Quay) :
    (q.countFree).freeCount = q.freeCount + 1 := rfl

/-! ## takeRequest -/

@[simp] theorem takeRequest_pins (q : Quay) (n : Nat) : (q.takeRequest n).pins = q.pins := rfl
@[simp] theorem takeRequest_profile (q : Quay) (n : Nat) : (q.takeRequest n).profile = q.profile := rfl
@[simp] theorem takeRequest_stage (q : Quay) (n : Nat) : (q.takeRequest n).stage = q.stage := rfl
@[simp] theorem takeRequest_loader (q : Quay) (n : Nat) : (q.takeRequest n).loader = q.loader := rfl
@[simp] theorem takeRequest_clock (q : Quay) (n : Nat) : (q.takeRequest n).clock = q.clock := rfl
@[simp] theorem takeRequest_bays (q : Quay) (n : Nat) : (q.takeRequest n).bays = q.bays := rfl
@[simp] theorem takeRequest_orders (q : Quay) (n : Nat) : (q.takeRequest n).orders = q.orders := rfl
@[simp] theorem takeRequest_assembly (q : Quay) (n : Nat) : (q.takeRequest n).assembly = q.assembly := rfl
@[simp] theorem takeRequest_freeList (q : Quay) (n : Nat) : (q.takeRequest n).freeList = q.freeList := rfl
@[simp] theorem takeRequest_moves (q : Quay) (n : Nat) : (q.takeRequest n).moves = q.moves := rfl
@[simp] theorem takeRequest_cranes (q : Quay) (n : Nat) : (q.takeRequest n).cranes = q.cranes := rfl
@[simp] theorem takeRequest_grantCounter (q : Quay) (n : Nat) : (q.takeRequest n).grantCounter = q.grantCounter := rfl
@[simp] theorem takeRequest_lanes (q : Quay) (n : Nat) : (q.takeRequest n).lanes = q.lanes := rfl
@[simp] theorem takeRequest_gangs (q : Quay) (n : Nat) : (q.takeRequest n).gangs = q.gangs := rfl
@[simp] theorem takeRequest_dispatch (q : Quay) (n : Nat) : (q.takeRequest n).dispatch = q.dispatch := rfl
@[simp] theorem takeRequest_stop (q : Quay) (n : Nat) : (q.takeRequest n).stop = q.stop := rfl
@[simp] theorem takeRequest_craneLink (q : Quay) (n : Nat) : (q.takeRequest n).craneLink = q.craneLink := rfl
@[simp] theorem takeRequest_laneLink (q : Quay) (n : Nat) : (q.takeRequest n).laneLink = q.laneLink := rfl
@[simp] theorem takeRequest_pool (q : Quay) (n : Nat) : (q.takeRequest n).pool = q.pool := rfl
@[simp] theorem takeRequest_port (q : Quay) (n : Nat) :
    (q.takeRequest n).port = { q.port with inHand := true, reply := none, guard := false, ready := n + 2 } := rfl
@[simp] theorem takeRequest_events (q : Quay) (n : Nat) : (q.takeRequest n).events = q.events := rfl
@[simp] theorem takeRequest_overflow (q : Quay) (n : Nat) : (q.takeRequest n).overflow = q.overflow := rfl
@[simp] theorem takeRequest_grantBar (q : Quay) (n : Nat) : (q.takeRequest n).grantBar = q.grantBar := rfl
@[simp] theorem takeRequest_freeCount (q : Quay) (n : Nat) : (q.takeRequest n).freeCount = q.freeCount := rfl

/-! ## passOver -/

@[simp] theorem passOver_pins (q : Quay) : (q.passOver).pins = q.pins := rfl
@[simp] theorem passOver_profile (q : Quay) : (q.passOver).profile = q.profile := rfl
@[simp] theorem passOver_stage (q : Quay) : (q.passOver).stage = q.stage := rfl
@[simp] theorem passOver_loader (q : Quay) : (q.passOver).loader = q.loader := rfl
@[simp] theorem passOver_clock (q : Quay) : (q.passOver).clock = q.clock := rfl
@[simp] theorem passOver_bays (q : Quay) : (q.passOver).bays = q.bays := rfl
@[simp] theorem passOver_orders (q : Quay) : (q.passOver).orders = q.orders := rfl
@[simp] theorem passOver_assembly (q : Quay) : (q.passOver).assembly = q.assembly := rfl
@[simp] theorem passOver_freeList (q : Quay) : (q.passOver).freeList = q.freeList := rfl
@[simp] theorem passOver_moves (q : Quay) : (q.passOver).moves = q.moves := rfl
@[simp] theorem passOver_cranes (q : Quay) : (q.passOver).cranes = q.cranes := rfl
@[simp] theorem passOver_grantCounter (q : Quay) : (q.passOver).grantCounter = q.grantCounter := rfl
@[simp] theorem passOver_lanes (q : Quay) : (q.passOver).lanes = q.lanes := rfl
@[simp] theorem passOver_gangs (q : Quay) : (q.passOver).gangs = q.gangs := rfl
@[simp] theorem passOver_dispatch (q : Quay) : (q.passOver).dispatch = q.dispatch := rfl
@[simp] theorem passOver_stop (q : Quay) : (q.passOver).stop = q.stop := rfl
@[simp] theorem passOver_craneLink (q : Quay) : (q.passOver).craneLink = q.craneLink := rfl
@[simp] theorem passOver_laneLink (q : Quay) : (q.passOver).laneLink = q.laneLink := rfl
@[simp] theorem passOver_pool (q : Quay) : (q.passOver).pool = q.pool := rfl
@[simp] theorem passOver_port (q : Quay) :
    (q.passOver).port = { q.port with ready := 1 } := rfl
@[simp] theorem passOver_events (q : Quay) : (q.passOver).events = q.events := rfl
@[simp] theorem passOver_overflow (q : Quay) : (q.passOver).overflow = q.overflow := rfl
@[simp] theorem passOver_grantBar (q : Quay) : (q.passOver).grantBar = q.grantBar := rfl
@[simp] theorem passOver_freeCount (q : Quay) : (q.passOver).freeCount = q.freeCount := rfl

/-! ## place -/

@[simp] theorem place_pins (q : Quay) (r : Reply) : (q.place r).pins = q.pins := rfl
@[simp] theorem place_profile (q : Quay) (r : Reply) : (q.place r).profile = q.profile := rfl
@[simp] theorem place_stage (q : Quay) (r : Reply) : (q.place r).stage = q.stage := rfl
@[simp] theorem place_loader (q : Quay) (r : Reply) : (q.place r).loader = q.loader := rfl
@[simp] theorem place_clock (q : Quay) (r : Reply) : (q.place r).clock = q.clock := rfl
@[simp] theorem place_bays (q : Quay) (r : Reply) : (q.place r).bays = q.bays := rfl
@[simp] theorem place_orders (q : Quay) (r : Reply) : (q.place r).orders = q.orders := rfl
@[simp] theorem place_assembly (q : Quay) (r : Reply) : (q.place r).assembly = q.assembly := rfl
@[simp] theorem place_freeList (q : Quay) (r : Reply) : (q.place r).freeList = q.freeList := rfl
@[simp] theorem place_moves (q : Quay) (r : Reply) : (q.place r).moves = q.moves := rfl
@[simp] theorem place_cranes (q : Quay) (r : Reply) : (q.place r).cranes = q.cranes := rfl
@[simp] theorem place_grantCounter (q : Quay) (r : Reply) : (q.place r).grantCounter = q.grantCounter := rfl
@[simp] theorem place_lanes (q : Quay) (r : Reply) : (q.place r).lanes = q.lanes := rfl
@[simp] theorem place_gangs (q : Quay) (r : Reply) : (q.place r).gangs = q.gangs := rfl
@[simp] theorem place_dispatch (q : Quay) (r : Reply) : (q.place r).dispatch = q.dispatch := rfl
@[simp] theorem place_stop (q : Quay) (r : Reply) : (q.place r).stop = q.stop := rfl
@[simp] theorem place_craneLink (q : Quay) (r : Reply) : (q.place r).craneLink = q.craneLink := rfl
@[simp] theorem place_laneLink (q : Quay) (r : Reply) : (q.place r).laneLink = q.laneLink := rfl
@[simp] theorem place_pool (q : Quay) (r : Reply) : (q.place r).pool = q.pool := rfl
@[simp] theorem place_port (q : Quay) (r : Reply) :
    (q.place r).port = { q.port with inHand := false, reply := some r } := rfl
@[simp] theorem place_events (q : Quay) (r : Reply) : (q.place r).events = q.events := rfl
@[simp] theorem place_overflow (q : Quay) (r : Reply) : (q.place r).overflow = q.overflow := rfl
@[simp] theorem place_grantBar (q : Quay) (r : Reply) : (q.place r).grantBar = q.grantBar := rfl
@[simp] theorem place_freeCount (q : Quay) (r : Reply) : (q.place r).freeCount = q.freeCount := rfl

/-! ## updLink -/

@[simp] theorem updLink_pins (q : Quay) (l : Link) (f : LinkCtl → LinkCtl) : (q.updLink l f).pins = q.pins := by
  cases l <;> rfl
@[simp] theorem updLink_profile (q : Quay) (l : Link) (f : LinkCtl → LinkCtl) : (q.updLink l f).profile = q.profile := by
  cases l <;> rfl
@[simp] theorem updLink_stage (q : Quay) (l : Link) (f : LinkCtl → LinkCtl) : (q.updLink l f).stage = q.stage := by
  cases l <;> rfl
@[simp] theorem updLink_loader (q : Quay) (l : Link) (f : LinkCtl → LinkCtl) : (q.updLink l f).loader = q.loader := by
  cases l <;> rfl
@[simp] theorem updLink_clock (q : Quay) (l : Link) (f : LinkCtl → LinkCtl) : (q.updLink l f).clock = q.clock := by
  cases l <;> rfl
@[simp] theorem updLink_bays (q : Quay) (l : Link) (f : LinkCtl → LinkCtl) : (q.updLink l f).bays = q.bays := by
  cases l <;> rfl
@[simp] theorem updLink_orders (q : Quay) (l : Link) (f : LinkCtl → LinkCtl) : (q.updLink l f).orders = q.orders := by
  cases l <;> rfl
@[simp] theorem updLink_assembly (q : Quay) (l : Link) (f : LinkCtl → LinkCtl) : (q.updLink l f).assembly = q.assembly := by
  cases l <;> rfl
@[simp] theorem updLink_freeList (q : Quay) (l : Link) (f : LinkCtl → LinkCtl) : (q.updLink l f).freeList = q.freeList := by
  cases l <;> rfl
@[simp] theorem updLink_moves (q : Quay) (l : Link) (f : LinkCtl → LinkCtl) : (q.updLink l f).moves = q.moves := by
  cases l <;> rfl
@[simp] theorem updLink_cranes (q : Quay) (l : Link) (f : LinkCtl → LinkCtl) : (q.updLink l f).cranes = q.cranes := by
  cases l <;> rfl
@[simp] theorem updLink_grantCounter (q : Quay) (l : Link) (f : LinkCtl → LinkCtl) : (q.updLink l f).grantCounter = q.grantCounter := by
  cases l <;> rfl
@[simp] theorem updLink_lanes (q : Quay) (l : Link) (f : LinkCtl → LinkCtl) : (q.updLink l f).lanes = q.lanes := by
  cases l <;> rfl
@[simp] theorem updLink_gangs (q : Quay) (l : Link) (f : LinkCtl → LinkCtl) : (q.updLink l f).gangs = q.gangs := by
  cases l <;> rfl
@[simp] theorem updLink_dispatch (q : Quay) (l : Link) (f : LinkCtl → LinkCtl) : (q.updLink l f).dispatch = q.dispatch := by
  cases l <;> rfl
@[simp] theorem updLink_stop (q : Quay) (l : Link) (f : LinkCtl → LinkCtl) : (q.updLink l f).stop = q.stop := by
  cases l <;> rfl
@[simp] theorem updLink_pool (q : Quay) (l : Link) (f : LinkCtl → LinkCtl) : (q.updLink l f).pool = q.pool := by
  cases l <;> rfl
@[simp] theorem updLink_port (q : Quay) (l : Link) (f : LinkCtl → LinkCtl) : (q.updLink l f).port = q.port := by
  cases l <;> rfl
@[simp] theorem updLink_events (q : Quay) (l : Link) (f : LinkCtl → LinkCtl) : (q.updLink l f).events = q.events := by
  cases l <;> rfl
@[simp] theorem updLink_overflow (q : Quay) (l : Link) (f : LinkCtl → LinkCtl) : (q.updLink l f).overflow = q.overflow := by
  cases l <;> rfl
@[simp] theorem updLink_grantBar (q : Quay) (l : Link) (f : LinkCtl → LinkCtl) : (q.updLink l f).grantBar = q.grantBar := by
  cases l <;> rfl
@[simp] theorem updLink_freeCount (q : Quay) (l : Link) (f : LinkCtl → LinkCtl) : (q.updLink l f).freeCount = q.freeCount := by
  cases l <;> rfl

@[simp] theorem updLink_link (q : Quay) (l : Link) (f : LinkCtl → LinkCtl) : (q.updLink l f).link l = f (q.link l) := by
  cases l <;> rfl

/-- The other link is not touched. -/
theorem updLink_other (q : Quay) {l k : Link} (f : LinkCtl → LinkCtl) (h : k ≠ l) :
    (q.updLink l f).link k = q.link k := by
  cases l <;> cases k <;> first | rfl | exact absurd rfl h

/-! ## post -/

/-- A kind of level 0 leaves the state as it is. -/
theorem post_discarded (q : Quay) (p : Posting) (h : q.level p.kind = 0) : q.post p = q := by
  simp [post, h]

/-- A kept record joins the tail of a queue with room. -/
theorem post_kept (q : Quay) (p : Posting) (h : q.level p.kind ≠ 0) (r : q.events.length < Config.eventRecords) :
    q.post p = { q with events := q.events ++ [q.eventOf p] } := by
  simp [post, h, r]

/-- A full queue loses the record and is marked. -/
theorem post_lost (q : Quay) (p : Posting) (h : q.level p.kind ≠ 0) (r : ¬ q.events.length < Config.eventRecords) :
    q.post p = { q with overflow := true } := by
  simp [post, h, r]

/-- The queue after a posting: as it was, or with one record more where there was room. -/
theorem post_events (q : Quay) (p : Posting) :
    (q.post p).events = q.events ∨
      (q.events.length < Config.eventRecords ∧ (q.post p).events = q.events ++ [q.eventOf p]) := by
  by_cases h : q.level p.kind = 0
  · exact Or.inl (by rw [post_discarded q p h])
  · by_cases r : q.events.length < Config.eventRecords
    · exact Or.inr ⟨r, by rw [post_kept q p h r]⟩
    · exact Or.inl (by rw [post_lost q p h r])

end Quay

end Sys2Proof.Machine
end

