-- ==== Sys2Proof/Laws/Ops.lean ====
section
/-!
SUPPORT. The shared operations, each said once: what the list helpers do, what a send of a frame does, what a
judgement does, what the loops and the placing of a reply do. Later proofs cite these and unfold no operation.
-/

namespace Sys2Proof.Machine

/-! ## Lists -/

theorem mem_insertBy {α : Type} {le : α → α → Bool} {x y : α} {l : List α} :
    y ∈ insertBy le x l ↔ y = x ∨ y ∈ l := by
  induction l with
  | nil => simp [insertBy]
  | cons z zs ih =>
    unfold insertBy
    split <;> simp [ih]
    constructor <;> rintro (h | h | h) <;> simp [h]

theorem length_insertBy {α : Type} {le : α → α → Bool} {x : α} {l : List α} :
    (insertBy le x l).length = l.length + 1 := by
  induction l with
  | nil => rfl
  | cons z zs ih => unfold insertBy; split <;> simp [ih]

theorem insertBy_perm {α : Type} {le : α → α → Bool} {x : α} {l : List α} : (insertBy le x l).Perm (x :: l) := by
  induction l with
  | nil => exact List.Perm.refl _
  | cons z zs ih =>
    unfold insertBy
    split
    · exact List.Perm.refl _
    · exact (List.Perm.cons z ih).trans (List.Perm.swap x z zs)

theorem sortBy_perm {α : Type} {le : α → α → Bool} {l : List α} : (sortBy le l).Perm l := by
  induction l with
  | nil => exact List.Perm.refl _
  | cons x xs ih => exact insertBy_perm.trans (ih.cons x)

theorem mem_sortBy {α : Type} {le : α → α → Bool} {y : α} {l : List α} : y ∈ sortBy le l ↔ y ∈ l :=
  sortBy_perm.mem_iff

/-- A list sorted by a key rises in that key. -/
theorem sortBy_rises {α : Type} (key : α → Nat) (l : List α) :
    (sortBy (fun a b => decide (key a ≤ key b)) l).Pairwise fun a b => key a ≤ key b := by
  induction l with
  | nil => exact List.Pairwise.nil
  | cons x xs ih =>
    have put : ∀ l : List α, l.Pairwise (fun a b => key a ≤ key b) →
        (insertBy (fun a b => decide (key a ≤ key b)) x l).Pairwise fun a b => key a ≤ key b := by
      intro l h
      induction l with
      | nil => simp [insertBy]
      | cons y ys ih =>
        obtain ⟨hy, hys⟩ := List.pairwise_cons.1 h
        by_cases le : key x ≤ key y
        · simp only [insertBy, le, decide_true, if_true]
          refine List.pairwise_cons.2 ⟨fun z hz => ?_, h⟩
          rcases List.mem_cons.1 hz with rfl | hz
          · exact le
          · exact Nat.le_trans le (hy z hz)
        · simp only [insertBy, le, decide_false, Bool.false_eq_true, if_false]
          refine List.pairwise_cons.2 ⟨fun z hz => ?_, ih hys⟩
          rcases mem_insertBy.1 hz with rfl | hz
          · omega
          · exact hy z hz
    exact put _ ih

/-- Nothing is taken only where nothing satisfies `p`. -/
theorem takeLast_none {α : Type} {p : α → Bool} {l : List α} (h : takeLast p l = none) : ∀ x ∈ l, p x = false := by
  induction l with
  | nil => simp
  | cons z zs ih =>
    unfold takeLast at h
    split at h
    · simp at h
    · rename_i hz
      split at h
      · simp at h
      · rename_i hp
        intro x hx
        rcases List.mem_cons.1 hx with rfl | hx
        · simpa using hp
        · exact ih hz x hx

/-- The last element that satisfies `p` is taken, and the rest keep their places. -/
theorem takeLast_spec {α : Type} {p : α → Bool} {l rest : List α} {v : α} (h : takeLast p l = some (v, rest)) :
    ∃ a b, l = a ++ v :: b ∧ rest = a ++ b ∧ p v = true ∧ ∀ x ∈ b, p x = false := by
  induction l generalizing rest with
  | nil => simp [takeLast] at h
  | cons x xs ih =>
    unfold takeLast at h
    split at h
    · rename_i w r hw
      cases h
      obtain ⟨a, b, h1, h2, h3, h4⟩ := ih hw
      exact ⟨x :: a, b, by simp [h1], by simp [h2], h3, h4⟩
    · rename_i hn
      split at h
      · rename_i hp
        cases h
        exact ⟨[], xs, rfl, rfl, hp, takeLast_none hn⟩
      · simp at h

theorem forEach_append {α σ : Type} (f : α → σ → σ) (a b : List α) (s : σ) :
    forEach f (a ++ b) s = forEach f b (forEach f a s) := by
  induction a generalizing s with
  | nil => rfl
  | cons x xs ih => exact ih (f x s)

/-- A property that every pass of a loop keeps is kept by the loop. -/
theorem forEach_inv {α σ : Type} {P : σ → Prop} {f : α → σ → σ} (h : ∀ x s, P s → P (f x s)) (l : List α) (s : σ)
    (hs : P s) : P (forEach f l s) := by
  induction l generalizing s with
  | nil => exact hs
  | cons x xs ih => exact ih (f x s) (h x s hs)

/-- Looking a record up by its key after a write of one key that keeps the keys. -/
theorem find_write {α : Type} {key : α → Nat} {f : α → α} {l : List α} {k n : Nat}
    (hf : ∀ x, key (f x) = key x) :
    (l.map fun x => if key x = n then f x else x).find? (fun x => decide (key x = k)) =
      if k = n then (l.find? fun x => decide (key x = k)).map f else l.find? fun x => decide (key x = k) := by
  induction l with
  | nil => simp
  | cons x xs ih =>
    simp only [List.map_cons, List.find?_cons]
    by_cases h : key x = n
    · simp only [h, if_true, hf]
      by_cases e : n = k
      · subst e; simp
      · have e' : ¬ k = n := fun w => e w.symm
        simp only [e, decide_false, e', if_false] at ih ⊢
        exact ih
    · simp only [h, if_false]
      by_cases e : key x = k
      · subst e
        simp [h]
      · simp only [e, decide_false]
        exact ih

namespace Quay

/-! ## Records by key -/

theorem bay?_updBay (q : Quay) (b k : Nat) {f : Bay → Bay} (hf : ∀ x, (f x).num = x.num) :
    (q.updBay b f).bay? k = if k = b then (q.bay? k).map f else q.bay? k :=
  find_write hf

theorem order?_updOrder (q : Quay) (b k : Nat) {f : Order → Order} (hf : ∀ x, (f x).slot = x.slot) :
    (q.updOrder b f).order? k = if k = b then (q.order? k).map f else q.order? k :=
  find_write hf

theorem move?_updMove (q : Quay) (b k : Nat) {f : Move → Move} (hf : ∀ x, (f x).num = x.num) :
    (q.updMove b f).move? k = if k = b then (q.move? k).map f else q.move? k :=
  find_write hf

theorem crane?_updCrane (q : Quay) (b k : Nat) {f : Crane → Crane} (hf : ∀ x, (f x).num = x.num) :
    (q.updCrane b f).crane? k = if k = b then (q.crane? k).map f else q.crane? k :=
  find_write hf

theorem lane?_updLane (q : Quay) (b k : Nat) {f : Lane → Lane} (hf : ∀ x, (f x).phys = x.phys) :
    (q.updLane b f).lane? k = if k = b then (q.lane? k).map f else q.lane? k :=
  find_write hf

theorem gang?_updGang (q : Quay) (b k : Nat) {f : Gang → Gang} (hf : ∀ x, (f x).num = x.num) :
    (q.updGang b f).gang? k = if k = b then (q.gang? k).map f else q.gang? k :=
  find_write hf

/-- A move found by its number has that number and is live. -/
theorem move?_some {q : Quay} {n : Nat} {m : Move} (h : q.move? n = some m) : m.num = n ∧ m ∈ q.moves :=
  ⟨by simpa using List.find?_some h, List.mem_of_find?_eq_some h⟩

theorem crane?_some {q : Quay} {n : Nat} {c : Crane} (h : q.crane? n = some c) : c.num = n ∧ c ∈ q.cranes :=
  ⟨by simpa using List.find?_some h, List.mem_of_find?_eq_some h⟩

theorem bay?_some {q : Quay} {n : Nat} {b : Bay} (h : q.bay? n = some b) : b.num = n ∧ b ∈ q.bays :=
  ⟨by simpa using List.find?_some h, List.mem_of_find?_eq_some h⟩

theorem order?_some {q : Quay} {n : Nat} {o : Order} (h : q.order? n = some o) : o.slot = n ∧ o ∈ q.orders :=
  ⟨by simpa using List.find?_some h, List.mem_of_find?_eq_some h⟩

theorem lane?_some {q : Quay} {n : Nat} {x : Lane} (h : q.lane? n = some x) : x.phys = n ∧ x ∈ q.lanes :=
  ⟨by simpa using List.find?_some h, List.mem_of_find?_eq_some h⟩

theorem gang?_some {q : Quay} {n : Nat} {x : Gang} (h : q.gang? n = some x) : x.num = n ∧ x ∈ q.gangs :=
  ⟨by simpa using List.find?_some h, List.mem_of_find?_eq_some h⟩

/-! ## Frames (R148, R149) -/

/-- A routine send queues the frame where the pool gives a slot, else posts its dropping; nothing else happens. -/
theorem sendRoutine_cases (q : Quay) (l : Link) (d : Nat) (m : TxMsg) :
    (q.routineSlot l = true ∧ q.sendRoutine l d m = q.enqueue l d m) ∨
      (q.routineSlot l = false ∧ q.sendRoutine l d m = q.post (frameDropped l .noSlot d m)) := by
  unfold sendRoutine
  cases h : q.routineSlot l <;> simp

/-- An urgent send does nothing on a link that carries no frames; it takes a free slot; it displaces; or it is
discarded. -/
theorem sendUrgent_cases (q : Quay) (l : Link) (d : Nat) (m : TxMsg) :
    (q.linkCarries l = false ∧ q.sendUrgent l d m = q) ∨
      (q.pool.length < Config.slots ∧ q.sendUrgent l d m = q.enqueue l d m) ∨
        (∃ v rest, takeLast displaceable q.pool = some (v, rest) ∧ q.sendUrgent l d m =
          ((q.setPool rest).post (frameDropped v.link .displaced v.dest v.msg)).enqueue l d m) ∨
          q.sendUrgent l d m = q.post (linkCongested l d m) := by
  unfold sendUrgent
  cases h : q.linkCarries l
  · exact Or.inl ⟨rfl, by simp⟩
  · by_cases r : q.pool.length < Config.slots
    · exact Or.inr (Or.inl ⟨r, by simp [r]⟩)
    · cases k : takeLast displaceable q.pool with
      | none => exact Or.inr (Or.inr (Or.inr (by simp [r])))
      | some x => exact Or.inr (Or.inr (Or.inl ⟨x.1, x.2, rfl, by simp [r]⟩))

/-- What a slot for a routine frame needs (R148). -/
theorem routineSlot_iff (q : Quay) (l : Link) :
    q.routineSlot l = true ↔ q.linkCarries l = true ∧ q.routineOn l < q.item Item.txCap ∧
      q.routineAll < Config.routineLimit ∧ q.pool.length < Config.slots := by
  simp [routineSlot, and_assoc]

/-! ## Judgement (R72) -/

/-- A judgement leaves everything as it is, or grants the crane's current move, which then awaited a permit with every
condition holding. -/
theorem judge_cases (q : Quay) (c : Nat) :
    q.judge c = q ∨ ∃ cr m, q.grantBar ≠ some c ∧ q.crane? c = some cr ∧ q.currentMove? c = some m ∧
      awaitsPermit m = true ∧ q.permitHolds cr m = true ∧ q.judge c = q.grant c m := by
  by_cases hb : q.grantBar = some c
  · exact Or.inl (by simp [judge, hb])
  · cases hc : q.crane? c with
    | none => exact Or.inl (by simp [judge, hb, hc])
    | some cr =>
      cases hm : q.currentMove? c with
      | none => exact Or.inl (by simp [judge, hb, hc, hm])
      | some m =>
        cases ha : awaitsPermit m
        · exact Or.inl (by simp [judge, hb, hc, hm, ha])
        · cases hp : q.permitHolds cr m
          · exact Or.inl (by simp [judge, hb, hc, hm, hp])
          · exact Or.inr ⟨cr, m, hb, rfl, rfl, ha, hp, by simp [judge, hb, hc, hm, ha, hp]⟩

/-- A crane whose enable is off or whose state is not WORKING is granted nothing. -/
theorem judge_barred {q : Quay} {c : Nat} (h : q.cannotGrant c) : q.judge c = q := by
  rcases judge_cases q c with e | ⟨cr, m, _, hc, _, _, hp, _⟩
  · exact e
  · exfalso
    simp only [cannotGrant, hc, Option.all_some, Bool.or_eq_true, Bool.not_eq_true', decide_eq_true_eq] at h
    simp only [permitHolds, craneCondition, Bool.and_eq_true, decide_eq_true_eq] at hp
    rcases h with h | h
    · simp_all
    · exact h hp.1.1.1.1.1.1.1.1.1.1.2

/-- While a quay stop is in force nothing is granted (R134, R136). -/
theorem judge_stopped {q : Quay} (c : Nat) (h : q.stopInForce = true) : q.judge c = q := by
  rcases judge_cases q c with e | ⟨cr, m, _, _, _, _, hp, _⟩
  · exact e
  · exfalso
    simp [permitHolds, craneCondition, h] at hp

/-! ## Dispatch (R120, R121) -/

/-- Of a gang kept so far and the gangs after it, the choice is one of them, none of which is nearer; of gangs rising in
number it is the lowest of the nearest. -/
theorem nearer_some {b : Nat} {x g : Gang} {l : List Gang} (h : l.foldl (nearer b) (some x) = some g) :
    g ∈ x :: l ∧ ∀ y ∈ x :: l, bayDistance g.lastBay b ≤ bayDistance y.lastBay b ∧
      (((x :: l).map (·.num)).Pairwise (· < ·) → bayDistance y.lastBay b = bayDistance g.lastBay b → g.num ≤ y.num) := by
  induction l generalizing x with
  | nil =>
    cases h
    simp
  | cons z zs ih =>
    rw [List.foldl_cons, nearer] at h
    split at h <;> rename_i hd <;> obtain ⟨hm, hy⟩ := ih h
    · refine ⟨List.mem_cons_of_mem _ hm, fun y hyl => ?_⟩
      have hz := hy z (List.mem_cons_self ..)
      rcases List.mem_cons.1 hyl with rfl | hyl
      · exact ⟨by omega, fun _ e => by omega⟩
      · exact ⟨(hy y hyl).1, fun hp => (hy y hyl).2 (List.pairwise_cons.1 hp).2⟩
    · have hx := hy x (List.mem_cons_self ..)
      have sub : (x :: zs).Sublist (x :: z :: zs) := (List.sublist_cons_self z zs).cons_cons x
      refine ⟨sub.subset hm, fun y hyl => ?_⟩
      rcases List.mem_cons.1 hyl with rfl | hyl
      · exact ⟨hx.1, fun hp => hx.2 (hp.sublist (sub.map _))⟩
      · rcases List.mem_cons.1 hyl with rfl | hyl
        · refine ⟨by omega, fun hp e => ?_⟩
          have h1 := hx.2 (hp.sublist (sub.map _)) (by omega)
          have h2 : x.num < y.num := (List.pairwise_cons.1 hp).1 _ (by simp)
          omega
        · exact ⟨(hy y (List.mem_cons_of_mem _ hyl)).1,
            fun hp => (hy y (List.mem_cons_of_mem _ hyl)).2 (hp.sublist (sub.map _))⟩

theorem nearestGang?_none {q : Quay} {b : Nat} (h : q.nearestGang? b = none) : q.idleGangs = [] := by
  unfold nearestGang? at h
  cases hl : q.idleGangs with
  | nil => rfl
  | cons x l =>
    rw [hl, List.foldl_cons] at h
    have : ∀ (l : List Gang) (x : Gang), l.foldl (nearer b) (some x) ≠ none := by
      intro l
      induction l with
      | nil => simp
      | cons z zs ih =>
        intro x
        rw [List.foldl_cons, nearer]
        split <;> exact ih _
    exact absurd h (this l x)

/-- The gang a dispatch chooses is IDLE and ONLINE, none is nearer, and of gangs rising in number it is the lowest of the
nearest (R121). -/
theorem nearestGang?_some {q : Quay} {b : Nat} {g : Gang} (h : q.nearestGang? b = some g) :
    g ∈ q.idleGangs ∧ ∀ y ∈ q.idleGangs, bayDistance g.lastBay b ≤ bayDistance y.lastBay b ∧
      ((q.gangs.map (·.num)).Pairwise (· < ·) → bayDistance y.lastBay b = bayDistance g.lastBay b → g.num ≤ y.num) := by
  unfold nearestGang? at h
  cases hl : q.idleGangs with
  | nil => simp [hl] at h
  | cons x l =>
    rw [hl, List.foldl_cons] at h
    obtain ⟨hm, hy⟩ := nearer_some (l := l) (x := x) h
    refine ⟨hm, fun y hyl => ⟨(hy y hyl).1, fun hp => (hy y hyl).2 ?_⟩⟩
    rw [← hl]
    exact hp.sublist (List.filter_sublist.map _)

/-- What a dispatch leaves as it is on its way from `q` to `t`: bays, links and profile; the frames queued; the order of
the list; and every gang of a number no IDLE gang has. -/
def Onward (q t : Quay) : Prop :=
  t.bays = q.bays ∧ t.craneLink = q.craneLink ∧ t.profile = q.profile ∧ q.pool <+: t.pool ∧
    t.dispatch.Sublist q.dispatch ∧
    ∀ z ∈ q.gangs, (∀ y ∈ q.gangs, y.num = z.num → y.state ≠ .idle) →
      z ∈ t.gangs ∧ ∀ y ∈ t.gangs, y.num = z.num → y.state ≠ .idle

theorem Onward.refl (q : Quay) : Onward q q :=
  ⟨rfl, rfl, rfl, List.prefix_refl _, List.Sublist.refl _, fun _ hz h => ⟨hz, h⟩⟩

theorem Onward.trans {q r t : Quay} (h : Onward q r) (k : Onward r t) : Onward q t := by
  obtain ⟨h1, h2, h3, h4, h5, h6⟩ := h
  obtain ⟨k1, k2, k3, k4, k5, k6⟩ := k
  refine ⟨k1.trans h1, k2.trans h2, k3.trans h3, h4.trans k4, k5.trans h5, fun z hz hn => ?_⟩
  obtain ⟨a, b⟩ := h6 z hz hn
  exact k6 z a b

theorem orderGang_gangs (q : Quay) (g b : Nat) (task : LashTask) : (q.orderGang g b task).gangs =
    q.gangs.map fun x => if x.num = g then
      { x with state := .ordered, task := some task, bay := some b, timer := .running (q.item Item.tLash) } else x := rfl

theorem orderGang_onward {q : Quay} {g : Gang} (b : Nat) (task : LashTask) (hg : g ∈ q.gangs) (hi : g.state = .idle) :
    Onward q (q.orderGang g.num b task) := by
  refine ⟨rfl, rfl, rfl, List.prefix_append _ _, List.filter_sublist, fun z hz hn => ?_⟩
  have hne : z.num ≠ g.num := fun e => hn g hg e.symm hi
  rw [orderGang_gangs]
  refine ⟨List.mem_map.2 ⟨z, hz, by rw [if_neg hne]⟩, fun y hy e => ?_⟩
  obtain ⟨x, hx, rfl⟩ := List.mem_map.1 hy
  split
  · simp
  · rename_i hnum
    rw [if_neg hnum] at e
    exact hn x hx e

theorem dispatchLoop_onward (n : Nat) (q : Quay) : Onward q (dispatchLoop n q) := by
  induction n generalizing q with
  | zero => exact Onward.refl q
  | succ n ih =>
    unfold dispatchLoop
    split
    · exact Onward.refl q
    · split
      · exact Onward.refl q
      · rename_i g hg
        split
        · have hm := (nearestGang?_some hg).1
          unfold idleGangs at hm
          simp only [List.mem_filter, decide_eq_true_eq] at hm
          exact (orderGang_onward _ _ hm.1 hm.2.1).trans (ih _)
        · exact Onward.refl q

/-- The two ways a bay that was given back goes (R121): it waits at the head of the list, or the nearest gang is ordered
and the dispatch goes on. -/
theorem giveBack_cases (q : Quay) (b : Nat) :
    (q.giveBack b = q.joinHead b ∧ ((q.joinHead b).idleGangs = [] ∨ (q.joinHead b).routineSlot .crane = false)) ∨
    ∃ g, (q.joinHead b).nearestGang? b = some g ∧ q.giveBack b = dispatchLoop (q.dispatch.filter fun x => x ≠ b).length
      ((q.joinHead b).orderGang g.num b (((q.joinHead b).bay? b).map (·.lash.task) |>.getD .unlash)) := by
  have hd : (q.joinHead b).dispatch = b :: q.dispatch.filter fun x => x ≠ b := rfl
  unfold giveBack makeDispatch
  rw [hd, List.length_cons, dispatchLoop, hd]
  dsimp only
  cases hn : (q.joinHead b).nearestGang? b with
  | none => exact Or.inl ⟨rfl, Or.inl (nearestGang?_none hn)⟩
  | some g =>
    dsimp only
    by_cases hs : (q.joinHead b).routineSlot .crane = true
    · exact Or.inr ⟨g, rfl, if_pos hs⟩
    · exact Or.inl ⟨if_neg hs, Or.inr (by simpa using hs)⟩

/-- The IDLE ONLINE gangs of a state whose stations another shares. -/
theorem idleGangs_eq {q t : Quay} (h : t.craneLink = q.craneLink) :
    (q.gangs.filter fun g => g.state = .idle ∧ (t.station .crane (16 + g.num)).state = .online) = q.idleGangs := by
  unfold idleGangs
  refine List.filter_congr fun x _ => decide_eq_decide.2 (and_congr_right fun _ => ?_)
  rw [gangOnline, decide_eq_true_eq, gangStation, station, station, link, link, h]

/-- What giving a bay back does (R120, R121). -/
theorem giveBack_givenBack (q : Quay) (b : Nat) : (q.giveBack b).givenBack q.gangs q.dispatch b := by
  rcases giveBack_cases q b with ⟨e, h⟩ | ⟨g, hn, e⟩
  · rw [e]
    refine Or.inl ⟨rfl, rfl, h.imp (fun h => ?_) id⟩
    exact (idleGangs_eq (q := q.joinHead b) rfl).trans h
  · obtain ⟨hm, hy⟩ := nearestGang?_some hn
    have hg := hm
    unfold idleGangs at hg
    simp only [List.mem_filter, decide_eq_true_eq] at hg
    rw [e]
    generalize ht : (((q.joinHead b).bay? b).map (·.lash.task) |>.getD .unlash) = task
    obtain ⟨k1, k2, k3, k4, k5, k6⟩ := dispatchLoop_onward (q.dispatch.filter fun x => x ≠ b).length
      ((q.joinHead b).orderGang g.num b task)
    generalize dispatchLoop (q.dispatch.filter fun x => x ≠ b).length ((q.joinHead b).orderGang g.num b task) = t at *
    have hfree : (q.gangs.filter fun g => g.state = .idle ∧ (t.station .crane (16 + g.num)).state = .online) =
        (q.joinHead b).idleGangs := idleGangs_eq (q := q.joinHead b) k2
    have hdis : ((q.joinHead b).orderGang g.num b task).dispatch =
        ((b :: q.dispatch.filter fun x => x ≠ b).filter fun x => x ≠ b) := rfl
    have htask : (if (t.bay? b).any (fun x => x.lash = .lashDue) then LashTask.lash else .unlash) = task := by
      have hb : t.bay? b = (q.joinHead b).bay? b := by
        unfold bay?
        rw [k1]
        rfl
      rw [hb, ← ht]
      cases (q.joinHead b).bay? b with
      | none => rfl
      | some x => cases hl : x.lash <;> simp [Lash.task, hl]
    have hitem : t.item Item.tLash = q.item Item.tLash := by
      unfold item itemWord
      rw [k3]
      rfl
    unfold givenBack
    rw [htask, hitem, hfree]
    refine Or.inr ⟨g, hm, hy, fun hb => ?_, ?_, ?_, ?_⟩
    · have := k5.subset hb
      rw [hdis] at this
      simp at this
    · rw [hdis, List.filter_cons_of_neg (by simp)] at k5
      exact k5.trans (List.filter_sublist.trans List.filter_sublist)
    · refine (k6 _ (List.mem_map.2 ⟨g, hg.1, by rw [if_pos rfl]; rfl⟩) fun y hy e => ?_).1
      rw [orderGang_gangs] at hy
      obtain ⟨x, _, rfl⟩ := List.mem_map.1 hy
      split
      · simp
      · rename_i hx
        rw [if_neg hx] at e
        exact absurd e hx
    · refine ⟨⟨.crane, 16 + g.num, .lashOrder task b, 0, false⟩, k4.subset ?_, rfl, rfl, rfl⟩
      exact List.mem_append_right _ (List.mem_singleton.2 rfl)

/-- The task of the dispatch for a bay, as `Dispatched` names it. -/
theorem task_of_lash (o : Option Bay) :
    ((o.map (·.lash.task)).getD .unlash) = if o.any (fun x => x.lash = .lashDue) then LashTask.lash else .unlash := by
  cases o with
  | none => rfl
  | some x => cases h : x.lash <;> simp [Lash.task, h]

/-- What a dispatch does, however many gangs it orders (R121). -/
theorem dispatchLoop_dispatched (n : Nat) (q : Quay) (fuel : q.dispatch.length ≤ n) :
    (dispatchLoop n q).Dispatched q.gangs q.dispatch (dispatchLoop n q).gangs (dispatchLoop n q).dispatch := by
  induction n generalizing q with
  | zero => exact .rests _ _ (.inl (List.eq_nil_of_length_eq_zero (Nat.le_zero.1 fuel)))
  | succ n ih =>
    cases hd : q.dispatch with
    | nil =>
      rw [show dispatchLoop (n + 1) q = q by rw [dispatchLoop, hd], hd]
      exact .rests _ _ (.inl rfl)
    | cons b rest =>
      cases hn : q.nearestGang? b with
      | none =>
        rw [show dispatchLoop (n + 1) q = q by simp only [dispatchLoop, hd, hn], hd]
        have free := (idleGangs_eq (t := q) rfl).trans (nearestGang?_none hn)
        refine .rests _ _ (.inr (.inl fun g hg hi ho => ?_))
        have mem : g ∈ q.gangs.filter fun g => g.state = .idle ∧ (q.station .crane (16 + g.num)).state = .online :=
          List.mem_filter.2 ⟨hg, decide_eq_true ⟨hi, ho⟩⟩
        rw [free] at mem
        exact List.not_mem_nil mem
      | some g =>
        have run : dispatchLoop (n + 1) q = if q.routineSlot .crane then
            dispatchLoop n (q.orderGang g.num b ((q.bay? b).map (·.lash.task) |>.getD .unlash)) else q := by
          simp only [dispatchLoop, hd, hn]
        rw [run]
        by_cases hs : q.routineSlot .crane = true
        · rw [if_pos hs, task_of_lash]
          obtain ⟨hm, hy⟩ := nearestGang?_some hn
          generalize ht : (if (q.bay? b).any (fun x => x.lash = .lashDue) then LashTask.lash else .unlash) = task
          have rest' : (q.orderGang g.num b task).dispatch = rest.filter fun x => x ≠ b := by
            show q.dispatch.filter _ = _
            rw [hd, List.filter_cons_of_neg (by simp)]
          have run := ih (q.orderGang g.num b task) (by
            rw [rest']
            rw [hd, List.length_cons] at fuel
            exact Nat.le_trans (List.length_filter_le _ _) (Nat.le_of_succ_le_succ fuel))
          obtain ⟨k1, k2, k3, k4, -, -⟩ := dispatchLoop_onward n (q.orderGang g.num b task)
          rw [rest', orderGang_gangs] at run
          generalize dispatchLoop n (q.orderGang g.num b task) = t at *
          have free : (q.gangs.filter fun g => g.state = .idle ∧ (t.station .crane (16 + g.num)).state = .online) =
            q.idleGangs := idleGangs_eq k2
          have bay : t.bay? b = q.bay? b := by
            unfold bay?
            rw [k1]
            rfl
          have item : t.item Item.tLash = q.item Item.tLash := by
            unfold item itemWord
            rw [k3]
            rfl
          rw [← free, List.mem_filter] at hm
          refine .orders _ b rest g task _ _ ⟨hm.1, of_decide_eq_true hm.2⟩ (fun y my iy oy => hy y ?_)
            (by rw [bay, ht]) ⟨⟨.crane, 16 + g.num, .lashOrder task b, 0, false⟩,
              k4.subset (List.mem_append_right _ (List.mem_singleton.2 rfl)), rfl, rfl, rfl⟩ (by rw [item]; exact run)
          rw [← free]
          exact List.mem_filter.2 ⟨my, decide_eq_true ⟨iy, oy⟩⟩
        · rw [if_neg hs, hd]
          exact .rests _ _ (.inr (.inr (by simpa using hs)))

theorem makeDispatch_dispatched (q : Quay) :
    q.makeDispatch.Dispatched q.gangs q.dispatch q.makeDispatch.gangs q.makeDispatch.dispatch :=
  dispatchLoop_dispatched _ q (Nat.le_refl _)

/-- A dispatch seen from a later state: bays, stations and T_LASH stand, the frames queued are still there, and a slot that
was not to be had is none. -/
theorem Dispatched.later {t u : Quay} (bays : u.bays = t.bays) (link : u.craneLink = t.craneLink)
    (item : u.item Item.tLash = t.item Item.tLash) (pool : t.pool <+: u.pool)
    (slot : t.routineSlot .crane = false → u.routineSlot .crane = false) {a c : List Gang} {b d : List Nat}
    (h : t.Dispatched a b c d) : u.Dispatched a b c d := by
  have station (n : Nat) : u.station .crane n = t.station .crane n := by
    rw [Quay.station, Quay.station, Quay.link, Quay.link, link]
  have bay (n : Nat) : u.bay? n = t.bay? n := by rw [bay?, bay?, bays]
  induction h with
  | rests gangs list done =>
    exact .rests _ _ (done.imp id (Or.imp (fun f g hg hi => (station _).symm ▸ f g hg hi) slot))
  | orders gangs b rest g task gangs' list' free nearest due told more ih =>
    obtain ⟨f, hf, told⟩ := told
    exact .orders _ b rest g task _ _ ⟨free.1, free.2.1, (station _).symm ▸ free.2.2⟩
      (fun y hy hi ho => nearest y hy hi (station _ ▸ ho)) (by rw [bay]; exact due) ⟨f, pool.subset hf, told⟩
      (by rw [item]; exact ih)

/-! ## Spans (R45) -/

/-- The search for a blocking crane finds one whenever a crane fails the test. -/
theorem nearerCrane_none {c : Nat} {l : List Crane} {best : Option Crane} :
    l.foldl (nearerCrane c) best = none ↔ best = none ∧ l = [] := by
  induction l generalizing best with
  | nil => simp
  | cons d ds ih =>
    rw [List.foldl_cons, ih]
    cases best with
    | none => simp [nearerCrane]
    | some b => simp only [nearerCrane]; split <;> simp

/-- A span passes the separation test exactly when no crane blocks it. -/
theorem spanFits_iff {q : Quay} {c : Nat} {cand : Span} :
    q.spanFits c cand ↔ q.blockingCrane? c cand = none := by
  unfold blockingCrane? spanFits
  rw [nearerCrane_none]
  simp only [true_and, List.filter_eq_nil_iff, spanFails]
  refine forall_congr' fun d => forall_congr' fun _ => ?_
  cases d.span with
  | none => simp
  | some sp =>
    by_cases h : d.num < c
    · simp [h, show ¬ c < d.num by omega]
    · by_cases k : c < d.num <;> simp [h, k]

/-! ## Free heads and the move of lowest issue position (R109, R67) -/

/-- `freeHeads` lists the free heads of a crane's lanes. -/
theorem mem_freeHeads {q : Quay} {c : Nat} {leaving : Option Word16} {l : Lane} {y : Truck} :
    (l, y) ∈ q.freeHeads c leaving ↔ q.freeHead c leaving l y := by
  simp only [freeHeads, freeHead, List.mem_filterMap, lanesOf, mem_sortBy, List.mem_filter, decide_eq_true_eq]
  constructor
  · rintro ⟨x, ⟨hx, hc⟩, h⟩
    by_cases st : x.state = .opened ∨ x.state = .caution
    · rw [if_pos st] at h
      split at h
      · exact absurd h (by simp)
      · rename_i t ts e
        split at h
        · rename_i free
          cases h
          exact ⟨hx, hc, st, by rw [e]; rfl, by simpa using free.1, free.2⟩
        · exact absurd h (by simp)
    · rw [if_neg st] at h
      exact absurd h (by simp)
  · rintro ⟨hl, hc, st, hd, hb, lv⟩
    refine ⟨l, ⟨hl, hc⟩, ?_⟩
    rw [if_pos st]
    obtain ⟨ts, e⟩ := List.head?_eq_some_iff.1 hd
    rw [e]
    simp [hb, lv]

/-- The move of a list that lies below every other in issue position is the one taken. -/
theorem lowestPos_of_least {l : List Move} {m : Move} (h : m ∈ l) (least : ∀ x ∈ l, x = m ∨ m.pos < x.pos) :
    lowestPos l = some m := by
  have run : ∀ (l : List Move) (b : Option Move), (∀ x ∈ l, x = m ∨ m.pos < x.pos) →
      (b = some m ∨ (m ∈ l ∧ ∀ x, b = some x → m.pos < x.pos)) → l.foldl lowerPos b = some m := by
    intro l
    induction l with
    | nil =>
      rintro b - (h | ⟨h, -⟩)
      · exact h
      · exact absurd h List.not_mem_nil
    | cons x xs ih =>
      intro b least h
      refine ih _ (fun y hy => least y (List.mem_cons_of_mem _ hy)) ?_
      have hx := least x List.mem_cons_self
      rcases b with _ | b
      · rcases h with h | ⟨h, -⟩
        · exact absurd h (by simp)
        · rcases List.mem_cons.1 h with rfl | h
          · exact .inl rfl
          · rcases hx with rfl | hx
            · exact .inl rfl
            · exact .inr ⟨h, by rintro y ⟨⟩; exact hx⟩
      · rcases h with h | ⟨h, low⟩
        · cases h
          rcases hx with rfl | hx
          · exact .inl (by simp [lowerPos])
          · exact .inl (by simp [lowerPos, Nat.not_lt.2 (Nat.le_of_lt hx)])
        · have lb := low b rfl
          by_cases lt : x.pos < b.pos
          · simp only [lowerPos, lt, if_true]
            rcases List.mem_cons.1 h with rfl | h
            · exact .inl rfl
            · rcases hx with rfl | hx
              · exact .inl rfl
              · exact .inr ⟨h, by rintro y ⟨⟩; exact hx⟩
          · simp only [lowerPos, lt, if_false]
            rcases List.mem_cons.1 h with rfl | h
            · exact absurd lb lt
            · exact .inr ⟨h, by rintro y ⟨⟩; exact lb⟩
  exact run l none least (.inr ⟨h, by simp⟩)

/-! ## Notices and withdrawals (R35, R77) -/

/-- An order's first move is the one R35 names. -/
theorem firstMove?_of_leads {q : Quay} {slot : Nat} {m : Move} (h : leads q.moves slot m) : q.firstMove? slot = some m := by
  obtain ⟨hm, ho, low⟩ := h
  have mem : m ∈ q.movesOf slot := List.mem_filter.2 ⟨hm, decide_eq_true ho⟩
  have of {x : Move} (hx : x ∈ q.movesOf slot) := low x (List.mem_filter.1 hx).1 (of_decide_eq_true (List.mem_filter.1 hx).2)
  unfold firstMove?
  by_cases hq : m.state = .queued
  · rw [lowestPos_of_least (m := m) (List.mem_filter.2 ⟨mem, decide_eq_true hq⟩) fun x hx => ?_]
    obtain ⟨hx, xq⟩ := List.mem_filter.1 hx
    have xq := of_decide_eq_true xq
    rcases of hx with e | ⟨-, n⟩ | ⟨-, lt⟩
    · exact .inl e
    · exact absurd xq n
    · exact .inr lt
  · have none : (q.movesOf slot).filter (fun m => m.state = .queued) = [] := by
      refine List.filter_eq_nil_iff.2 fun x hx => ?_
      rcases of hx with e | ⟨n, -⟩ | ⟨i, -⟩
      · simpa [e] using hq
      · exact absurd n hq
      · simpa using fun xq => hq (i.2 xq)
    rw [none]
    refine lowestPos_of_least mem fun x hx => ?_
    rcases of hx with e | ⟨n, -⟩ | ⟨-, lt⟩
    · exact .inl e
    · exact absurd n hq
    · exact .inr lt

/-- The notice of an order to an ONLINE crane names its first move's class (R35). -/
theorem workNotice_of_leads {q : Quay} {c slot : Nat} {o : Order} {m : Move} (ho : q.order? slot = some o)
    (online : (q.station .crane c).state = .online) (h : leads q.moves slot m) :
    q.workNotice c slot = q.sendRoutine .crane c (.workNotice o.tag o.bay o.sect m.cls) := by
  rw [workNotice, ho, firstMove?_of_leads h]
  exact if_pos (decide_eq_true online)

/-- Steps 1 to 5 of R77 for a cause that sends a frame. -/
theorem withdrawCore_withdrawn {q : Quay} {c : Nat} {m : Move} {cause : Lapse} (h : Lapse.sendsFrame cause = true) :
    q.withdrawCore c m cause = q.withdrawn c m cause := by
  unfold withdrawCore
  rw [h]
  rfl

/-! ## The station tables (R141) -/

/-- A write of one station keeps the table's numbers. -/
theorem setStation_stationLaw {q : Quay} (h : q.StationLaw) (l : Link) (n : Nat) (st : StationState) :
    (q.setStation l n st).StationLaw := by
  intro k
  rw [← h k]
  cases l <;> cases k <;> simp only [setStation, updLink, link, List.map_map] <;>
    exact List.map_congr_left fun x _ => by dsimp only [Function.comp]; split <;> rfl

/-! ## Requests (R154, R155) -/

/-- A request that passes the port's checks is served. -/
theorem takeWith_served {q : Quay} {code : Nat} {record bytes : List Byte} {serve : List Byte → Quay → Quay}
    (h : q.takesAnyStage record bytes) (k : q.stage = .run ∨ allowedInConfig code = true) :
    q.takeWith code record serve = serve bytes (q.takeRequest (record.length + 1)) := by
  obtain ⟨h1, h2, h3⟩ := h
  have hs : ¬ ((q.takeRequest (record.length + 1)).stage = .config ∧ allowedInConfig code = false) := by
    rintro ⟨a, b⟩
    rcases k with k | k
    · rw [takeRequest_stage, k] at a
      cases a
    · simp [b] at k
  have hl : (q.takeRequest (record.length + 1)).loader.running = false := h2
  unfold takeWith
  rw [if_neg (by simp [h1])]
  simp only [hl, Bool.false_eq_true, if_false]
  rw [if_neg hs, h3]

/-- A reply placed on a request just taken. -/
theorem placeAnswer_taken (q : Quay) (record : List Byte) (code : Nat) (why : Reason) (r : List Byte) :
    placeAnswer code ⟨q.takeRequest (record.length + 1), why, r⟩ = q.replied record code why r := rfl

/-- A read selection within the bytes its transfer has to give is served, and ends the guard. -/
theorem readSelection_served {q : Quay} {code : Byte} {n : Nat} {l : List Byte} (h : q.stream? code = some l)
    (k : n ≤ l.length) : q.readSelection code n =
      ((q.giveBytes code n).updPort fun x => { x with ready := readRises l.length n }).clearGuard := by
  unfold readSelection
  rw [h]
  exact if_pos k

/-- A read selection clocked on beyond its last byte is a format error. -/
theorem readSelection_beyond {q : Quay} {code : Byte} {n : Nat} {l : List Byte} (h : q.stream? code = some l)
    (k : l.length < n) : q.readSelection code n = q.formatError .earlyEdge code n := by
  unfold readSelection
  rw [h]
  exact if_neg (by omega)

/-! ## Frames of stations (R140, R141) -/

/-- A frame that is heard reaches the station table, acknowledged. -/
theorem receive_heard {q : Quay} {l : Link} {f : RxFrame} {n : Nat} (h : q.hears l f n)
    (handle : Nat → List Byte → Quay → Quay) : q.receive l f handle = handle n f.payload (q.setAck l true) := by
  obtain ⟨h1, h2, h3, h4, h5, h6⟩ := h
  unfold receive
  simp only [h1, h2, h3, h4, Bool.not_true, Bool.false_eq_true, if_false, false_or]
  rw [if_neg (by omega), if_neg (by omega)]

theorem setAck_station (q : Quay) (l k : Link) (a : Bool) (n : Nat) : (q.setAck l a).station k n = q.station k n := by
  cases l <;> cases k <;> rfl

/-- A frame of an ONLINE station whose role sends the kind, long enough, reaches its block. -/
theorem stationFrame_heard {α : Type} {q : Quay} {l : Link} {f : RxFrame} {n kind : Nat} {r : Role} {ops : α}
    {read : List Byte → Option α} (h : q.hearsFrom l f n r) (hs : r.sends kind = true)
    (hr : read f.payload = some ops) (act : Nat → α → Quay → Quay) :
    q.stationFrame l kind f read act = act n ops (q.setAck l true) := by
  obtain ⟨h1, h2, h3⟩ := h
  unfold stationFrame
  rw [receive_heard h1]
  simp [setAck_station, h2, h3, hs, hr]

end Quay

end Sys2Proof.Machine
end

