-- ==== Sys2Proof/Laws/PerInstr.lean ====
section
/-!
SUPPORT. The family Form: what the tables of the spec say of every command as syntax. A row that is a frame of a
station has a kind that its link takes (R140, 12.2) and that some role sends (R141); a row that is a request has a
code from 01h to 17h (12.3); no row is both.
-/

namespace Sys2Proof.Laws.Form

open Sys2Proof.Machine

/-- The row agrees with the tables of frame kinds and request codes. -/
def Statement (i : Instr) : Prop :=
  (∀ l k f, stationRow i = some (l, k, f) → linkTakes l k = true ∧
    (Role.crane.sends k = true ∨ Role.gang.sends k = true ∨ Role.gate.sends k = true)) ∧
  (∀ code r, requestRow i = some (code, r) → 1 ≤ code ∧ code ≤ 0x17) ∧
  ((stationRow i).isNone = true ∨ (requestRow i).isNone = true)

theorem neither {i : Instr} (h : stationRow i = none) (k : requestRow i = none) : Statement i :=
  ⟨fun _ _ _ e => by simp [h] at e, fun _ _ e => by simp [k] at e, Or.inl (by simp [h])⟩

theorem ofRequest {i : Instr} {code : Nat} {r : List Byte} (h : stationRow i = none)
    (k : requestRow i = some (code, r)) (hc : 1 ≤ code ∧ code ≤ 0x17) : Statement i := by
  refine ⟨fun _ _ _ e => by simp [h] at e, fun c r' e => ?_, Or.inl (by simp [h])⟩
  rw [k] at e
  cases e
  exact hc

theorem ofStation {i : Instr} {l : Link} {kd : Nat} {f : RxFrame} (h : stationRow i = some (l, kd, f))
    (k : requestRow i = none)
    (hk : linkTakes l kd = true ∧
      (Role.crane.sends kd = true ∨ Role.gang.sends kd = true ∨ Role.gate.sends kd = true)) : Statement i := by
  refine ⟨fun l' k' f' e => ?_, fun _ _ e => by simp [k] at e, Or.inr (by simp [k])⟩
  rw [h] at e
  cases e
  exact hk

theorem reset : Statement .reset :=
  neither rfl rfl
theorem profileRecord (r : FlashRecord) : Statement (.profileRecord r) :=
  neither rfl rfl
theorem profileRead (record : List Byte) : Statement (.profileRead record) :=
  ofRequest rfl rfl (by decide)
theorem profileWrite (record : List Byte) : Statement (.profileWrite record) :=
  ofRequest rfl rfl (by decide)
theorem attach (record : List Byte) : Statement (.attach record) :=
  ofRequest rfl rfl (by decide)
theorem planReset (record : List Byte) : Statement (.planReset record) :=
  ofRequest rfl rfl (by decide)
theorem berthLoad (record : List Byte) : Statement (.berthLoad record) :=
  ofRequest rfl rfl (by decide)
theorem orderOpen (record : List Byte) : Statement (.orderOpen record) :=
  ofRequest rfl rfl (by decide)
theorem orderEntries (record : List Byte) : Statement (.orderEntries record) :=
  ofRequest rfl rfl (by decide)
theorem orderClose (record : List Byte) : Statement (.orderClose record) :=
  ofRequest rfl rfl (by decide)
theorem orderCancel (record : List Byte) : Statement (.orderCancel record) :=
  ofRequest rfl rfl (by decide)
theorem moveDefer (record : List Byte) : Statement (.moveDefer record) :=
  ofRequest rfl rfl (by decide)
theorem moveReinstate (record : List Byte) : Statement (.moveReinstate record) :=
  ofRequest rfl rfl (by decide)
theorem moveClearDone (record : List Byte) : Statement (.moveClearDone record) :=
  ofRequest rfl rfl (by decide)
theorem moveClearRetry (record : List Byte) : Statement (.moveClearRetry record) :=
  ofRequest rfl rfl (by decide)
theorem moveClearCancel (record : List Byte) : Statement (.moveClearCancel record) :=
  ofRequest rfl rfl (by decide)
theorem craneEnable (record : List Byte) : Statement (.craneEnable record) :=
  ofRequest rfl rfl (by decide)
theorem craneClear (record : List Byte) : Statement (.craneClear record) :=
  ofRequest rfl rfl (by decide)
theorem gangClear (record : List Byte) : Statement (.gangClear record) :=
  ofRequest rfl rfl (by decide)
theorem laneOpen (record : List Byte) : Statement (.laneOpen record) :=
  ofRequest rfl rfl (by decide)
theorem laneClose (record : List Byte) : Statement (.laneClose record) :=
  ofRequest rfl rfl (by decide)
theorem laneClear (record : List Byte) : Statement (.laneClear record) :=
  ofRequest rfl rfl (by decide)
theorem laneAssign (record : List Byte) : Statement (.laneAssign record) :=
  ofRequest rfl rfl (by decide)
theorem quayStop (record : List Byte) : Statement (.quayStop record) :=
  ofRequest rfl rfl (by decide)
theorem quayResume (record : List Byte) : Statement (.quayResume record) :=
  ofRequest rfl rfl (by decide)
theorem linkHold (record : List Byte) : Statement (.linkHold record) :=
  ofRequest rfl rfl (by decide)
theorem tableRead (record : List Byte) : Statement (.tableRead record) :=
  ofRequest rfl rfl (by decide)
theorem reply (n : Nat) : Statement (.reply n) :=
  neither rfl rfl
theorem events (n : Nat) : Statement (.events n) :=
  neither rfl rfl
theorem status (n : Nat) : Statement (.status n) :=
  neither rfl rfl
theorem portFormat (cause : FormatCause) (code : Byte) (index : Word16) (written : List Byte) :
    Statement (.portFormat cause code index written) :=
  neither rfl rfl
theorem guardEnd : Statement .guardEnd :=
  neither rfl rfl
theorem malformedFrame (link : Link) (raw : List Byte) : Statement (.malformedFrame link raw) :=
  neither rfl rfl
theorem join (link : Link) (f : RxFrame) : Statement (.join link f) :=
  neither rfl rfl
theorem leave (link : Link) (f : RxFrame) : Statement (.leave link f) := by
  cases link <;> exact ofStation rfl rfl (by decide)
theorem stop (link : Link) (f : RxFrame) : Statement (.stop link f) := by
  cases link <;> exact ofStation rfl rfl (by decide)
theorem qstopFall : Statement .qstopFall :=
  neither rfl rfl
theorem gantryReq (f : RxFrame) : Statement (.gantryReq f) :=
  ofStation rfl rfl (by decide)
theorem arrived (f : RxFrame) : Statement (.arrived f) :=
  ofStation rfl rfl (by decide)
theorem spreaderSet (f : RxFrame) : Statement (.spreaderSet f) :=
  ofStation rfl rfl (by decide)
theorem liftStart (f : RxFrame) : Statement (.liftStart f) :=
  ofStation rfl rfl (by decide)
theorem liftDone (f : RxFrame) : Statement (.liftDone f) :=
  ofStation rfl rfl (by decide)
theorem liftFail (f : RxFrame) : Statement (.liftFail f) :=
  ofStation rfl rfl (by decide)
theorem spot (f : RxFrame) : Statement (.spot f) :=
  ofStation rfl rfl (by decide)
theorem lashStart (f : RxFrame) : Statement (.lashStart f) :=
  ofStation rfl rfl (by decide)
theorem lashDone (f : RxFrame) : Statement (.lashDone f) :=
  ofStation rfl rfl (by decide)
theorem lashDecline (f : RxFrame) : Statement (.lashDecline f) :=
  ofStation rfl rfl (by decide)
theorem truckEnter (f : RxFrame) : Statement (.truckEnter f) :=
  ofStation rfl rfl (by decide)
theorem truckSet (f : RxFrame) : Statement (.truckSet f) :=
  ofStation rfl rfl (by decide)
theorem truckExit (f : RxFrame) : Statement (.truckExit f) :=
  ofStation rfl rfl (by decide)
theorem obsActivation (lane : Nat) : Statement (.obsActivation lane) :=
  neither rfl rfl
theorem obsInactive (lane : Nat) : Statement (.obsInactive lane) :=
  neither rfl rfl
theorem pulseTimerExpiry (lane : Nat) : Statement (.pulseTimerExpiry lane) :=
  neither rfl rfl
theorem lockoutTimerExpiry (lane : Nat) : Statement (.lockoutTimerExpiry lane) :=
  neither rfl rfl
theorem windowTimerExpiry (lane : Nat) : Statement (.windowTimerExpiry lane) :=
  neither rfl rfl
theorem gantryTimerExpiry (crane : Nat) : Statement (.gantryTimerExpiry crane) :=
  neither rfl rfl
theorem acceptanceTimerExpiry (crane : Nat) : Statement (.acceptanceTimerExpiry crane) :=
  neither rfl rfl
theorem liftTimerExpiry (crane : Nat) : Statement (.liftTimerExpiry crane) :=
  neither rfl rfl
theorem truckWaitTimerExpiry (crane : Nat) : Statement (.truckWaitTimerExpiry crane) :=
  neither rfl rfl
theorem lashTimerExpiry (gang : Nat) : Statement (.lashTimerExpiry gang) :=
  neither rfl rfl
theorem attempt (link : Link) : Statement (.attempt link) :=
  neither rfl rfl
theorem delivered (link : Link) : Statement (.delivered link) :=
  neither rfl rfl
theorem failedAttempt (link : Link) : Statement (.failedAttempt link) :=
  neither rfl rfl
theorem quietCountComplete (link : Link) : Statement (.quietCountComplete link) :=
  neither rfl rfl
theorem qstopRise : Statement .qstopRise :=
  neither rfl rfl
theorem quietInterval (link : Link) : Statement (.quietInterval link) :=
  neither rfl rfl
theorem quayClockTick : Statement .quayClockTick :=
  neither rfl rfl
theorem unknownRequest (record : List Byte) : Statement (.unknownRequest record) :=
  neither rfl rfl

end Sys2Proof.Laws.Form
end

