-- ==== Sys2Proof/Tests/Slice0.lean ====
section
/-!
SUPPORT. Tests: the well-formedness checks refuse ill-formed commands; small facts the spec states; for every statement
with hypotheses a theorem `witness_<statement>` whose states and operands meet them, clause by clause.
-/

namespace Sys2Proof.Tests

open Sys2Proof Sys2Proof.Machine

-- One theorem's kernel evaluation at a time: side by side they start too many threads.
set_option Elab.async false

/-! ## A small plan -/

/-- A request record: operand length and operands. -/
def req (ops : List Byte) : List Byte := be16n ops.length ++ ops

/-- A frame to the LQ48 from a station. -/
def fr (src : Nat) (payload : List Byte) : RxFrame := ⟨0, byte src, payload⟩

def bay (n : Nat) : Bay := ⟨n, 10, 10, 20, 20, .on, .opened⟩

def crane (n b : Nat) : Crane :=
  { newCrane n with state := .idle, bay := some b, span := some ⟨b, b⟩, spreader := .single, enable := true }

def truck : Truck := ⟨7, .empty, .c40, none, none, true, some 3, false⟩

def lane (p c : Nat) : Lane := ⟨p, p, .opened, some c, [], .idle, .stopped, .stopped, .stopped⟩

def order (st : OrderState) : Order :=
  { slot := 0, tag := 9, kind := .discharge, crane := 1, bay := 1, sect := .deck, rowCount := some 4, startRow := some 0
    ordering := some .strict, priority := .normal, groups := [⟨.single20, 1⟩], total := 1, state := st, live := 1
    done := 0, cancelled := 0, stalled := false }

def move (st : MoveState) : Move :=
  { num := 3, order := 0, crane := 1, bay := 1, sect := .deck, kind := .discharge, cls := .single20, row := some 0
    tier := some 0, box := none, partner := none, group := 1, pos := 0, state := st, truck := some ⟨7, 1⟩
    stamp := some 5, fails := 0 }

def online (role : Nat → Option Role) : LinkCtl :=
  { LinkCtl.reset with
    state := .active
    stations := (List.range 32).map fun n => ⟨n, role n, if (role n).isSome then .online else .offline⟩ }

/-- Two bays, two cranes, one gang, two lanes, both links ACTIVE with every station ONLINE, nothing ordered. -/
def idle : Quay :=
  { Quay.reset with
    stage := .run
    loader := ⟨false, 1, 0, 0⟩
    bays := [bay 1, bay 6]
    cranes := [crane 1 1, crane 2 6]
    lanes := [lane 1 1, lane 2 1]
    gangs := [newGang 1]
    craneLink := online fun n => if n = 1 ∨ n = 2 then some .crane else if n = 17 then some .gang else none
    laneLink := online fun n => if n = 1 ∨ n = 2 then some .gate else none }

/-- Crane 1 at work on a move in the given state; its truck heads lane 1. -/
def busy (st : MoveState) : Quay :=
  { (idle.updCrane 1 fun x =>
      { x with
        state := .working, active := some 0, current := if st = .faulted then none else some 3, accept := .running 5
        lift := .running 5, truckWait := .running 5 }) with
    orders := [order .active], moves := [move st], freeList := (List.range 384).filter fun n => n ≠ 3
    lanes := [{ lane 1 1 with fifo := [truck] }, lane 2 1] }

/-- The gang of the plan in a state, with the given bay. -/
def gang (st : GangState) (b : Option Nat) : Quay :=
  { idle with gangs := [{ newGang 1 with state := st, task := some .unlash, bay := b, timer := .running 9 }] }

/-- An order that assembles, one entry short or whole. -/
def assembling (es : List Entry) (late : Bool) : Quay :=
  { idle with orders := [order .assembling], assembly := some ⟨0, [3], es, late, none, none⟩ }

def entry : Entry := ⟨0, 0, none, none, false⟩

/-- A crane in a fault. -/
def faulty : Quay := idle.updCrane 1 fun x => { x with state := .fault, faultMark := true }

/-- A crane on its way. -/
def travelling : Quay := idle.updCrane 1 fun x =>
  { x with state := .positioning, span := some ⟨1, 3⟩, target := some 3, gantry := .running 9 }

/-- A stop in force by PIN. -/
def stopped : Quay := idle.setStop ⟨[.pin], some .pin, some 0⟩

/-- A link in REJOIN. -/
def rejoining (complete hold : Bool) : Quay :=
  idle.updLink .crane fun k => { k with state := .rejoin, complete := complete, hold := hold, quiet := 31 }

/-- A frame in transmission on the crane link. -/
def sending (fails : Nat) : Quay := idle.setPool [⟨.crane, 1, .joinAck, fails, true⟩]

/-- A request of RUN is taken whenever the port and the loader are free. -/
theorem takes_req (q : Quay) (ops : List Byte) (h : q.port.inHand = false ∧ q.loader.running = false ∧ q.stage = .run)
    (n : ops.length ≤ 445) : q.takes (req ops) ops := by
  refine ⟨h.1, h.2.1, h.2.2, ?_⟩
  have e : (word16 ((BitVec.ofNat 16 ops.length).extractLsb' 8 8) ((BitVec.ofNat 16 ops.length).extractLsb' 0 8)).toNat =
      ops.length := by
    have : word16 ((BitVec.ofNat 16 ops.length).extractLsb' 8 8) ((BitVec.ofNat 16 ops.length).extractLsb' 0 8) =
        BitVec.ofNat 16 ops.length := by
      apply BitVec.eq_of_getLsbD_eq
      intro i hi
      simp only [word16, BitVec.getLsbD_append, BitVec.getLsbD_extractLsb']
      by_cases h8 : i < 8
      · simp [h8]
      · simp [h8, show 8 + (i - 8) = i by omega, show i - 8 < 8 by omega]
    rw [this, BitVec.toNat_ofNat]
    omega
  simp only [recordOperands, req, be16n, be16, List.cons_append, List.nil_append, List.length_cons, Config.portBytes, e]
  rw [if_neg (by omega), if_neg (by omega), List.take_length]

/-- The requests of a list are taken in each of a list of parts. -/
theorem takes_all (Q : List Quay) (O : List (List Byte))
    (h : ∀ q ∈ Q, q.port.inHand = false ∧ q.loader.running = false ∧ q.stage = .run)
    (n : ∀ ops ∈ O, ops.length ≤ 445) : ∀ q ∈ Q, ∀ ops ∈ O, q.takes (req ops) ops :=
  fun q hq ops ho => takes_req q ops (h q hq) (n ops ho)

/-- A crane's current move is a live move whose number the crane holds. -/
theorem current_of {q : Quay} {c : Nat} {y : Move} (h : q.currentMove? c = some y) :
    ∃ x ∈ q.cranes, x.num = c ∧ y ∈ q.moves ∧ x.current = some y.num := by
  simp only [Quay.currentMove?, Option.bind_eq_some_iff] at h
  obtain ⟨n, ⟨x, hx, hn⟩, hy⟩ := h
  obtain ⟨num, live⟩ := Quay.crane?_some hx
  exact ⟨x, live, num, (Quay.move?_some hy).2, by rw [hn, (Quay.move?_some hy).1]⟩

/-! ## The well-formedness checks refuse -/

theorem test_ill_formed_move_clear :
    (Instr.moveClearDone (req [0, 3, 1])).wellFormed = false ∧ (Instr.moveClearRetry (req [0, 3, 0])).wellFormed = false ∧
      (Instr.moveClearCancel (req [0, 3, 1])).wellFormed = false := by decide +kernel

theorem test_ill_formed_format_error :
    (Instr.portFormat .badCode 1 0 []).wellFormed = false ∧ (Instr.portFormat .midByte 9 2 []).wellFormed = false := by
  decide +kernel

theorem test_ill_formed_frames :
    (Instr.join .crane (fr 0 [1, 1, 1])).wellFormed = false ∧ (Instr.leave .lane (fr 31 [])).wellFormed = false ∧
      (Instr.liftStart (fr 1 (List.replicate 13 0))).wellFormed = false ∧
      (Instr.malformedFrame .crane [0, 1, 2, 0, 0, 0]).wellFormed = true ∧
      (Instr.malformedFrame .crane ([0, 1, 2, 0] ++ be16 (crc16 [0, 1, 2, 0]))).wellFormed = false := by decide +kernel

theorem test_ill_formed_numbers :
    (Instr.obsActivation 0).wellFormed = false ∧ (Instr.pulseTimerExpiry 9).wellFormed = false ∧
      (Instr.lockoutTimerExpiry 9).wellFormed = false ∧ (Instr.liftTimerExpiry 7).wellFormed = false ∧
      (Instr.lashTimerExpiry 9).wellFormed = false := by decide +kernel

theorem test_ill_formed_unknown_request :
    (Instr.unknownRequest [0x17]).wellFormed = false ∧ (Instr.unknownRequest [0x18]).wellFormed = true ∧
      (Instr.unknownRequest []).wellFormed = true := by decide +kernel

/-! ## Small facts of the spec -/

/-- No word spells a command, so a fetched word leaves the state as it is. -/
theorem test_no_word_spells_a_command (s : State) (n w : Nat) : decodeTableWord n w = none ∧ s.withFetchWord n w = s :=
  ⟨rfl, rfl⟩

/-- The check value of the CRC of 12.2: "123456789" gives 29B1h. -/
theorem test_crc_check_value :
    crc16 [0x31, 0x32, 0x33, 0x34, 0x35, 0x36, 0x37, 0x38, 0x39] = 0x29B1#16 := by decide +kernel

theorem test_item_table_has_66_rows : itemRows.length = 66 ∧ (itemRows.map (·.no)).Nodup := by decide +kernel

theorem test_status_byte_after_reset : Quay.reset.statusByte = 0#8 := by decide +kernel

/-- From reset: the loader stops at END, ATTACH makes the default plan, the links become ACTIVE, crane 1 joins. -/
def started : List Instr :=
  [.profileRecord ⟨0x2FFF, 0, 0, 0, 0, 0⟩, .attach (req []), .quietCountComplete .crane, .quietCountComplete .lane,
   .join .crane (fr 1 [1, 4, 1])]

/-- The state after a list of commands. -/
def after : List Instr → State → State
  | [], s => s
  | c :: cs, s =>
    match exec c s with
    | .next t => after cs t
    | _ => s

theorem test_start_up :
    (after started State.reset).quay.stage = .run ∧ (after started State.reset).quay.bays.length = 24 ∧
      ((after started State.reset).quay.crane? 1).map (fun x => (x.state, x.bay)) = some (.idle, some 4) ∧
      ((after started State.reset).quay.pool.map fun f => f.wire.take 4) = [[1, 0, 0x41, 0], [1, 0, 0x44, 0]] := by
  decide +kernel

theorem test_lift_of_a_discharge :
    (((after [.liftStart (fr 1 [0, 5]), .liftDone (fr 1 ([0, 5, 0] ++ List.replicate 8 0))] ⟨busy .permitted, []⟩).quay.bay?
      1).map (·.deckCount)) = some 9 := by decide +kernel

theorem test_busy_is_answered_before_all_else :
    (after [.quayStop []] State.reset).quay = Quay.reset.refused [] Code.quayStop .busy := by decide +kernel

/-- A crane found on its way by a JOIN from outside its span stops travelling, goes OFFLINE and keeps its span. -/
theorem test_refused_join_ends_travel :
    ((after [.join .crane (fr 1 [1, 6, 1])] ⟨travelling, []⟩).quay.crane? 1).map
        (fun x => (x.state, x.faultMark, x.gantry, x.target, x.span)) =
      some (.offline, true, .stopped, none, some ⟨1, 3⟩) := by decide +kernel

/-- The truck of a PERMITTED move leaves while an URGENT order waits to be pushed: no move keeps it. -/
theorem test_leaving_truck_is_bound_to_nothing :
    let q : Quay :=
      { (busy .permitted).updCrane 1 (fun x => { x with preempt := some 1 }) with
        orders := [order .active, { order .waiting with slot := 1, tag := 8, priority := .urgent }]
        moves := [move .permitted, { move .queued with num := 4, order := 1, truck := none, stamp := none }] }
    ((after [.truckExit (fr 1 [0, 7])] ⟨q, []⟩).quay.moves.map fun m => (m.num, m.state, m.truck)) =
      [(3, .queued, none), (4, .staged, none)] := by decide +kernel

/-- A clock edge after the one byte a STATUS transfer has is a format error; READY rose for two bytes. -/
theorem test_status_clocked_on :
    (after [.status 2] State.reset).quay.port =
      { Quay.reset.port with formatError := true, guard := true, ready := 2, sdo := [0] } := by decide +kernel

/-! ## Witnesses of hypotheses: the machine and the port -/

theorem witness_StepTakesFront : (⟨idle, [.guardEnd]⟩ : State).pending = .guardEnd :: [] ∧ State.reset.pending = [] :=
  ⟨rfl, rfl⟩

theorem witness_PortJudgesRequests :
    requestRow (.laneOpen [0]) = some (Code.laneOpen, [0]) ∧ (idle.updPort fun x => { x with inHand := true }).port.inHand = true ∧
      idle.port.inHand = false ∧ Quay.reset.loader.running = true ∧ idle.loader.running = false ∧
      (Quay.reset.updLoader fun x => { x with running := false }).stage = .config ∧
      allowedInConfig Code.laneOpen = false ∧ allowedInConfig Code.tableRead = true ∧ idle.stage = .run ∧
      447 < (List.replicate 448 (0 : Byte)).length ∧ ([0] : List Byte).length < 2 ∧
      ([0, 2, 1] : List Byte) = 0 :: 2 :: [1] ∧ ([1] : List Byte).length < (word16 0 2).toNat := by decide +kernel

theorem witness_ShortOperandsRefused :
    (∀ q ∈ [idle], ∀ ops ∈ [[], [0], [0, 9, 1]], q.takes (req ops) ops) ∧
      (Instr.laneOpen (req []), Code.laneOpen, 1) ∈ [(Instr.laneOpen (req []), Code.laneOpen, 1)] ∧
      ([] : List Byte).length < 1 ∧ ([] : List Byte).length ≠ 11 * (1 : Byte).toNat :=
  ⟨takes_all _ _ (by decide +kernel) (by decide +kernel), by decide +kernel⟩

/-- A request allowed in every stage is taken when the port and the loader are free. -/
theorem takes_any (q : Quay) (ops : List Byte) (h : q.port.inHand = false ∧ q.loader.running = false)
    (n : ops.length ≤ 445) : q.takesAnyStage (req ops) ops :=
  ⟨h.1, h.2, (takes_req idle ops ⟨rfl, rfl, rfl⟩ n).2.2.2⟩

/-- The part in CONFIG with the loader stopped. -/
def config : Quay := { Quay.reset with loader := ⟨false, 1, 0, 0⟩ }

theorem witness_UnknownAndTableRead :
    (Instr.unknownRequest [0x18]).wellFormed = true ∧ idle.port.inHand = false ∧
      idle.takesAnyStage (req [7, 0, 0, 1]) [7, 0, 0, 1] ∧ opsTableRead [7, 0, 0, 1] = some (7, 0, 1) ∧
      opsTableRead [6, 0, 0, 1] = some (6, 0, 1) ∧ Table.ofCode 6 = some .laneLink :=
  ⟨by decide +kernel, rfl, takes_any _ _ ⟨rfl, rfl⟩ (by decide +kernel), by decide +kernel⟩

theorem witness_ProfileItems :
    idle.takesAnyStage (req [0, 7, 0, 9]) [0, 7, 0, 9] ∧ config.takesAnyStage (req [0, 1, 0, 9]) [0, 1, 0, 9] ∧
      ops16 [0, 0] = some 0 ∧ itemRow 0 = none ∧ itemRow 137 ≠ none ∧ itemRow 138 = none ∧ itemRow 4094 = none ∧
      ops16x2 [0, 7, 0, 9] = some (7, 9) ∧ itemRow 7 = some ⟨7, 1, 60, 8, false⟩ ∧ itemRow 1 = some ⟨1, 1, 60, 24, true⟩ ∧
      (0 : Word16).toNat < 1 ∧ 60 < (61 : Word16).toNat ∧ idle.stage = .run ∧ config.stage = .config :=
  ⟨takes_any _ _ ⟨rfl, rfl⟩ (by decide +kernel), takes_any _ _ ⟨rfl, rfl⟩ (by decide +kernel), by decide +kernel⟩

/-- Every item at its default fits its range. -/
theorem profile_fits (q : Quay) (h : q.profile = defaultProfile) : q.ProfileLaw := by
  unfold Quay.ProfileLaw
  rw [h]
  refine ⟨by decide +kernel, ?_⟩
  have k : ∀ x ∈ defaultProfile, (itemRow x.1).all (fun r => r.admits x.2) = true := by decide +kernel
  intro x hx r hr
  have := k x hx
  rw [hr] at this
  exact this

theorem witness_ProfileLaw : idle.ProfileLaw ∧ config.ProfileLaw := ⟨profile_fits _ rfl, profile_fits _ rfl⟩

/-- A record: header, two values, checksum. -/
def flash (header v1 v2 : Word16) : FlashRecord :=
  { header := header, v1 := v1, v2 := v2, v3 := 0, v4 := 0
    checksum := (flashBody ⟨header, v1, v2, 0, 0, 0⟩).foldl (· ^^^ ·) 0xA5#8 }

theorem witness_ProfileRecordCourse :
    idle.loader.running = false ∧ Quay.reset.loader.running = true ∧ Quay.reset.loader.count + 1 < Config.loaderRecords ∧
      Header.valueCount 0x3001 = 1 ∧ flashChecksumAgrees (flash 0x3001 20 0) = true ∧
      itemRow (Header.itemNo 0x3001) = some ⟨1, 1, 60, 24, true⟩ ∧
      flashGood (flash 0x4FFE 1 2) = true ∧ Header.itemNo 0x4FFE = 4094 ∧ Header.valueCount 0x4FFE = 2 ∧
      flashGood (flash 0x2FFF 0 0) = true ∧ Header.itemNo 0x2FFF = 4095 ∧ Quay.reset.item Item.autoAttach ≠ 1 ∧
      Header.valueCount 0x5001 = 2 ∧ itemRow (Header.itemNo 0x5001) = some ⟨1, 1, 60, 24, true⟩ ∧
      itemRow (Header.itemNo 0x5001 + 1) = some ⟨2, 1, 6, 4, true⟩ ∧
      (Quay.reset.setItem Item.autoAttach 1).item Item.autoAttach = 1 ∧ Quay.reset.mapConflict = false ∧
      Quay.reset.craneMisfit = false ∧ (Quay.reset.setItem Item.bayCount 1).craneMisfit = true ∧
      ((Quay.reset.setItem Item.laneMapMode 1).setItem 17 2).mapConflict = true ∧
      Config.loaderRecords ≤ 2047 + 1 ∧ flashGood (flash 0x0001 0 0) = false ∧ Header.valueCount 0x2FFE ≠ 2 ∧
      flashGood (flash 0x3001 20 0) = true ∧ Header.itemNo 0x3001 ≠ 4095 ∧ Header.itemNo 0x3001 ≠ 4094 ∧
      (Quay.reset.updLoader fun x => { x with attempt := 3, count := 2047 }).loader = ⟨true, 3, 0, 2047⟩ := by
  decide +kernel

theorem witness_AttachMakesPlan :
    idle.takesAnyStage (req []) [] ∧ idle.stage = .run ∧ config.takesAnyStage (req []) [] ∧ config.stage = .config ∧
      ((config.setItem Item.laneMapMode 1).setItem 17 2).mapConflict = true ∧ config.mapConflict = false ∧
      (config.setItem Item.bayCount 6).item Item.bayCount < (config.item Item.craneCount - 1) * config.item Item.separation + 1 ∧
      (config.item Item.craneCount - 1) * config.item Item.separation + 1 ≤ (config.setItem Item.bayCount 7).item Item.bayCount ∧
      config.pins.qstopHigh = true ∧ (config.updPins fun x => { x with qstopHigh := false }).pins.qstopHigh = false ∧
      config.stop.sources = [] ∧
      [1, 2, 7, 8].map (config.setItem Item.laneEnabled 0xC1).logicalOf = [1, 0, 2, 3] ∧
      [1, 2, 8].map ((((config.setItem Item.laneEnabled 0x81).setItem Item.laneMapMode 1).setItem 17 8).setItem 24 0).logicalOf =
        [8, 0, 0] :=
  ⟨takes_any _ _ ⟨rfl, rfl⟩ (by decide +kernel), rfl, takes_any _ _ ⟨rfl, rfl⟩ (by decide +kernel), by decide +kernel⟩

theorem witness_PlanResetDrops :
    (∀ q ∈ [busy .lifting, busy .faulted, gang .working (some 1), busy .permitted], ∀ ops ∈ [[]], q.takes (req ops) ops) ∧
      (∃ m ∈ (busy .lifting).moves, m.state = .lifting ∨ m.state = .faulted) ∧
      (∃ g ∈ (gang .working (some 1)).gangs, g.state = .working) ∧
      (∀ m ∈ (busy .permitted).moves, m.state ≠ .lifting ∧ m.state ≠ .faulted) ∧
      (∀ g ∈ (busy .permitted).gangs, g.state ≠ .working) ∧ ((busy .permitted).gangs.map (·.num)).Nodup ∧
      (busy .permitted).currentMove? 1 = some (move .permitted) ∧ 1 ∈ (busy .permitted).craneNums ∧
      ((gang .ordered (some 1)).gangs.map (·.num)).Nodup ∧ (∀ m ∈ (gang .ordered (some 1)).moves, m.state ≠ .lifting) ∧
      ∃ g ∈ (gang .ordered (some 1)).gangs, g.state = .ordered ∧ g.task = some .unlash ∧ g.bay = some 1 :=
  ⟨takes_all _ _ (by decide +kernel) (by decide +kernel), by decide +kernel⟩

/-- The reset of a plan with a PERMITTED move and an ORDERED gang: both are told, the crane first. -/
theorem test_plan_reset_tells :
    ((after [.planReset (req [])] ⟨{ busy .permitted with gangs := (gang .ordered (some 1)).gangs }, []⟩).quay.pool.map
      fun f => (f.dest, f.msg)) = [(1, .permitWithdraw 5 .reset), (17, .lashCancel .unlash 1)] := by decide +kernel

/-! ## Berth Table and orders -/

/-- One move of each row of R11, at the boundary of its count condition, and its bay. -/
theorem witness_BayJudgementAndEffect :
    (bay 1).allows { move .matched with cls := .twin20 } = true ∧
      { bay 1 with deckCount := 1 }.allows { move .matched with cls := .twin20 } = false ∧
      { bay 1 with deckCount := 20 }.allows { move .matched with kind := .load } = false ∧
      { bay 1 with hatch := .off }.allows { move .matched with sect := .hold } = true ∧
      { bay 1 with hatch := .off, holdCount := 20 }.allows { move .matched with kind := .load, sect := .hold } = false ∧
      (bay 1).allows { move .matched with kind := .hatchOff } = false ∧
      { bay 1 with deckCount := 0 }.allows { move .matched with kind := .hatchOff } = true ∧
      (bay 1).allows { move .matched with kind := .hatchOn } = false := by decide +kernel

theorem witness_BerthLoadWritesBay :
    (∀ q ∈ [idle, busy .matched, gang .ordered (some 6)], ∀ ops ∈ [[2, 0, 0, 0, 0, 0, 0], [6, 120, 200, 120, 200, 0, 3], [1, 5, 5, 5, 5, 0, 0]],
        q.takes (req ops) ops) ∧
      opsBerthLoad [2, 0, 0, 0, 0, 0, 0] = some ⟨2, 0, 0, 0, 0, 0, 0⟩ ∧ idle.bay? 2 = none ∧ idle.bay? 6 = some (bay 6) ∧
      opsBerthLoad [6, 120, 200, 120, 200, 0, 3] = some ⟨6, 120, 200, 120, 200, 0, 3⟩ ∧
      ((busy .matched).claim? 1).any (fun c => c.current.isSome) = true ∧ (∃ m ∈ (busy .matched).moves, m.bay = 1) ∧
      (∃ g ∈ (gang .ordered (some 6)).gangs, (g.state = .ordered ∨ g.state = .working) ∧ g.bay = some 6) ∧
      ((idle.claim? 6).map (·.current)) = some none ∧ (∀ m ∈ idle.moves, m.bay ≠ 6) ∧
      (∀ g ∈ idle.gangs, (g.state = .ordered ∨ g.state = .working) → g.bay ≠ some 6) :=
  ⟨takes_all _ _ (by decide +kernel) (by decide +kernel), by decide +kernel⟩

/-- An ORDER OPEN header of one group. -/
def header (tag cr b cls n : Byte) : List Byte := [0, tag, 0, cr, b, 0, 4, 0, 0, 1, cls, n, 0, 0, 0, 0]

/-- Whether ORDER OPEN answers a header with a reason. -/
def barred (q : Quay) (ops : List Byte) (r : Reason) : Bool :=
  match opsOrderOpen ops with
  | some h =>
    match q.orderOpenBar h with
    | .error x => decide (x = r)
    | .ok _ => false
  | none => false

/-- Whether ORDER OPEN accepts a header. -/
def accepted (q : Quay) (ops : List Byte) : Bool :=
  match opsOrderOpen ops with
  | some h =>
    match q.orderOpenBar h with
    | .error _ => false
    | .ok _ => true
  | none => false

/-- The header of an order of three groups, or of a hatch or unknown kind. -/
def header3 (kind groups n1 n2 n3 : Byte) : List Byte := [0, 9, kind, 1, 1, 0, 4, 0, 0, groups, 0, n1, 1, n2, 2, n3]

theorem witness_OrderOpenReserves :
    (∀ q ∈ [idle], ∀ ops ∈ [header 9 1 1 0 96, header 9 1 1 0 97], q.takes (req ops) ops) ∧
      accepted idle (header3 0 3 60 60 8) = true ∧ barred idle (header3 0 3 60 60 9) .tooLong = true ∧
      accepted idle (header3 1 2 96 32 97) = true ∧ barred idle (header3 1 4 1 1 1) .badValue = true ∧
      accepted idle (header3 2 0 0 0 0) = true ∧ barred idle (header3 3 1 1 0 0) .badValue = true ∧
      barred (idle.setFreeList []) (header3 3 0 0 0 0) .storeFull = true ∧ barred idle (header3 4 1 1 0 0) .badValue = true ∧
      OrderKind.ofCode 1 = some .load ∧ OrderKind.load.isHatch = false ∧ OrderKind.ofCode 3 = some .hatchOn ∧
      OrderKind.hatchOn.isHatch = true ∧ OrderKind.ofCode 4 = none ∧
      accepted idle (header 9 1 1 0 96) = true ∧ barred idle (header 9 1 1 0 97) .tooLong = true ∧
      barred (assembling [] false) (header 8 1 1 0 1) .assemblyBusy = true ∧ barred idle (header 0 1 1 0 1) .badValue = true ∧
      barred (busy .staged) (header 9 1 1 0 1) .tagInUse = true ∧ barred idle (header 9 3 1 0 1) .badCrane = true ∧
      barred idle (header 9 1 2 0 1) .badBay = true ∧ barred idle (header 9 1 1 0 0) .groupEmpty = true ∧
      barred idle (header 9 1 1 3 1) .badClass = true ∧
      barred { idle with orders := (List.range 24).map fun n => { order .waiting with slot := n } } (header 8 1 1 0 1)
        .orderTableFull = true ∧
      barred (idle.updCrane 1 fun x => { x with waiting := List.range 8 }) (header 8 1 1 0 1) .craneListFull = true ∧
      barred (idle.setFreeList [1]) (header 8 1 1 0 2) .storeFull = true :=
  ⟨takes_all _ _ (by decide +kernel) (by decide +kernel), by decide +kernel⟩

/-- The operands of ORDER ENTRIES with one entry. -/
def entries : List Byte := [0, 9, 1] ++ List.replicate 11 0

theorem witness_OrderEntriesTaken :
    (∀ q ∈ [idle, assembling [] false, assembling [entry] false], ∀ ops ∈ [entries, [0, 9, 0]], q.takes (req ops) ops) ∧
      (opsOrderEntries entries).isSome = true ∧ opsOrderEntries [0, 9, 0] = some (9, 0, []) ∧
      idle.assembling? 9 = none ∧ (assembling [] false).assembling? 9 = some (⟨0, [3], [], false, none, none⟩, order .assembling) ∧
      ([] : List Entry).length ≤ (order .assembling).entryTotal ∧ [entry].length ≤ (order .assembling).entryTotal ∧
      (order .assembling).groups.flatMap (fun g => List.replicate g.count g.cls) = [.single20] :=
  ⟨takes_all _ _ (by decide +kernel) (by decide +kernel), by decide +kernel⟩

theorem witness_OrderCloseJudged :
    (∀ q ∈ [idle, assembling [entry] true, assembling [] false, assembling [entry] false], ∀ ops ∈ [[0, 9]], q.takes (req ops) ops) ∧
      opsTag [0, 9] = some 9 ∧ idle.assembling? 9 = none ∧
      (assembling [entry] true).assembling? 9 = some (⟨0, [3], [entry], true, none, none⟩, order .assembling) ∧
      ([] : List Entry).length < (order .assembling).entryTotal ∧ (order .assembling).entryTotal ≤ [entry].length ∧
      (Assembly.take (order .assembling) ⟨0, [3], [], false, none, none⟩ { entry with tier := 16 }).firstFailed = some 0 ∧
      (Assembly.take { order .assembling with total := 2, groups := [⟨.single20, 2⟩] } ⟨0, [3, 4], [entry], false, none, none⟩
        entry).firstRepeat = some 1 ∧
      (assembling [entry] false).assembling? 9 = some (⟨0, [3], [entry], false, none, none⟩, order .assembling) ∧
      (order .assembling).kind.isHatch = false ∧ [3].length = [entry].length ∧
      [entry].length = ((order .assembling).groups.map (·.count)).sum ∧ (order .assembling).rowCount = some 4 ∧
      (order .assembling).startRow = some 0 ∧ (∀ e ∈ [entry, { entry with row := 3 }], e.row < 4) ∧
      { order .assembling with kind := .hatchOff }.entryTotal ≤ ([] : List Entry).length ∧
      { order .assembling with kind := .hatchOff }.kind.isHatch = true :=
  ⟨takes_all _ _ (by decide +kernel) (by decide +kernel), by decide +kernel⟩

/-- Order 8 of a priority assembles whole for crane 1, changed by `f`, beside order 9 whose move is in state `st`. -/
def closing (f : Crane → Crane) (p : Priority) (st : MoveState) : Quay :=
  { idle.updCrane 1 f with
    orders := [order .active, { order .assembling with slot := 1, tag := 8, priority := p }]
    moves := [{ move st with truck := none }], assembly := some ⟨1, [4], [entry], false, none, none⟩, freeList := [5, 6] }

/-- Crane 1 with order 9 as its active order, and with none. -/
def atWork (n : Nat) (x : Crane) : Crane := { x with active := some 0, stack := List.replicate n ⟨2, none, .twin, true⟩, waiting := [7] }
def atRest (p : Option Nat) (n : Nat) (x : Crane) : Crane := { atWork n x with active := none, preempt := p }

/-- Where ORDER CLOSE places order 8: the crane's list, active order, pending order and stack. -/
def placed (q : Quay) : Option (List Nat × Option Nat × Option Nat × List Nat) :=
  ((after [.orderClose (req [0, 8])] ⟨q, []⟩).quay.crane? 1).map fun x =>
    (x.waiting, x.active, x.preempt, x.stack.map (·.order))

/-- Every way of R31 and R61. -/
theorem witness_OrderCloseJudged_placed :
    ∀ x ∈
      [(closing (atWork 2) .normal .queued, ([7, 1], some 0, none, [2, 2])),
       (closing (atWork 2) .urgent .queued, ([7], some 1, none, [0, 2, 2])),
       (closing (atWork 2) .urgent .lifting, ([7], some 0, some 1, [2, 2])),
       (closing (atWork 3) .urgent .queued, ([1, 7], some 0, none, [2, 2, 2])),
       (closing (atRest (some 0) 1) .normal .queued, ([7, 1], some 0, none, [2])),
       (closing (atRest none 1) .urgent .queued, ([1, 7], some 2, none, [])),
       (closing (atRest none 0) .urgent .queued, ([7], some 1, none, [])),
       ((closing (atRest none 0) .urgent .queued).updLink .crane fun k => { k with stations := [] },
         ([1, 7], none, none, []))],
      placed x.1 = some x.2 := by decide +kernel

theorem witness_OrderCloseJudged_records :
    (closing (atWork 2) .normal .queued).recordNumbers.Nodup ∧
      (closing (atWork 2) .normal .queued).bay? 1 = some (bay 1) ∧
      (closing (atWork 2) .normal .queued).order? 0 = some (order .active) := by decide +kernel

/-- Order 8 closes for a bay that is LASHED, so that the unlash trigger acts, and for one that is OPEN. -/
theorem witness_OrderCloseJudged_due :
    let q := (closing (atWork 2) .normal .queued).updBay 1 fun x => { x with lash := .lashed }
    q.assembling? 8 = (closing (atWork 2) .normal .queued).assembling? 8 ∧ (q.bay? 1).any (fun b => b.lash = .lashed) = true ∧
      ((closing (atWork 2) .normal .queued).bay? 1).any (fun b => b.lash = .lashed) = false ∧
      (order .assembling).kind = .discharge ∧ (order .assembling).sect = .deck := by decide +kernel

/-- As order 8 joins the list, ONLINE crane 1 takes up order 0, whose only move is its first. -/
theorem witness_OrderCloseJudged_notice :
    let q := closing (fun x => { x with waiting := [0] }) .normal .queued
    let made := movesOfOrder { order .assembling with slot := 1, tag := 8 } ⟨1, [4], [entry], false, none, none⟩
    q.recordNumbers.Nodup ∧ q.order? 0 = some (order .active) ∧ ((q.crane? 1).map (·.active)) = some none ∧
      placed q = some ([1], some 0, none, []) ∧ (q.station .crane 1).state = .online ∧ made.length = 1 ∧
      Quay.leads (q.moves ++ made) 0 { move .queued with truck := none } ∧
      ∀ c y, q.currentMove? c = some y → y.order ≠ 0 := by
  intro q made
  refine ⟨by decide +kernel, by decide +kernel, by decide +kernel, by decide +kernel, by decide +kernel,
    by decide +kernel, by unfold Quay.leads; decide +kernel, fun c y h => ?_⟩
  obtain ⟨x, hx, -, hy, e⟩ := current_of h
  exact absurd e ((by decide +kernel : ∀ x ∈ q.cranes, ∀ y ∈ q.moves, x.current ≠ some y.num) x hx y hy)

theorem witness_OrderCloseJudged_takes (f : Crane → Crane) (p : Priority) (st : MoveState) :
    (closing f p st).takes (req [0, 8]) [0, 8] ∧ (closing f p st).assembling? 8 =
      some (⟨1, [4], [entry], false, none, none⟩, { order .assembling with slot := 1, tag := 8, priority := p }) :=
  ⟨takes_req _ _ ⟨rfl, rfl, rfl⟩ (by decide +kernel), rfl⟩

/-- An ACTIVE order of a LIFTING move that is its crane's current move, and one QUEUED move. -/
def halfDone : Quay :=
  { busy .lifting with
    orders := [{ order .active with total := 2, live := 2 }]
    moves := [move .lifting, { move .queued with num := 4, truck := none, stamp := none, pos := 1 }] }

/-- An order that waits with its move. -/
def waiting (st : OrderState) : Quay := { idle with orders := [order st], moves := [{ move .queued with truck := none }] }

theorem witness_OrderCancelEnds_moves :
    (∀ q ∈ [busy .matched, busy .permitted, halfDone, waiting .waiting, waiting .stacked], q.MovesOnce ∧
        (q.movesOf 0) ≠ [] ∧ (q.order? 0).any (fun o => o.tag = 9 ∧ o.live = (q.movesOf 0).length) = true) ∧
      (∀ st ∈ [MoveState.matched, .permitted], (busy st).currentMove? 1 = some (move st) ∧
        (busy st).movesOf 0 = [move st] ∧ (move st).truck = some ⟨7, 1⟩ ∧
        (busy st).laneOfTag? 7 = some { lane 1 1 with fifo := [truck] } ∧
        ((busy st).crane? 1).any (fun x => x.active = some 0) = true ∧
        ((busy st).order? 0).any (fun o => o = order .active ∧ o.crane = 1) = true) ∧
      halfDone.currentMove? 1 = some (move .lifting) ∧ halfDone.currentMove? 2 = none := by
  unfold Quay.MovesOnce
  decide +kernel

/-- No crane but crane 1 holds a move of the order in these parts. -/
theorem witness_OrderCancelEnds_others (q : Quay) (h : q ∈ [busy .matched, busy .permitted, halfDone]) (c : Nat) (y : Move)
    (hc : q.currentMove? c = some y) : c = 1 := by
  have only : ∀ q ∈ [busy .matched, busy .permitted, halfDone], ∀ x ∈ q.cranes, ∀ y ∈ q.moves,
      x.current = some y.num → x.num = 1 := by decide +kernel
  obtain ⟨x, hx, rfl, hy, e⟩ := current_of hc
  exact only q h x hx y hy e

/-- Cancelled, a PERMITTED move costs PERMIT WITHDRAW before its truck's release. -/
theorem test_cancel_withdraws :
    ((after [.orderCancel (req [0, 9])] ⟨busy .permitted, []⟩).quay.pool.map fun f => (f.link, f.dest, f.msg)).take 2 =
      [(.crane, 1, .permitWithdraw 5 .cancel), (.lane, 1, .truckRelease 7 1 .empty none none)] := by decide +kernel

theorem witness_OrderCancelEnds :
    (∀ q ∈ [idle, busy .matched, assembling [entry] false], ∀ ops ∈ [[0, 9]], q.takes (req ops) ops) ∧
      idle.orderByTag? 9 = none ∧ (busy .matched).orderByTag? 9 = some (order .active) ∧
      { busy .lifting with orders := [order .cancelling] }.orderByTag? 9 = some (order .cancelling) ∧
      { idle with orders := [order .waiting] }.orderByTag? 9 = some (order .waiting) ∧
      { idle with orders := [order .stacked] }.orderByTag? 9 = some (order .stacked) ∧
      (assembling [entry] false).orderByTag? 9 = some (order .assembling) ∧ (assembling [entry] false).assembly.isSome = true :=
  ⟨takes_all _ _ (by decide +kernel) (by decide +kernel), by decide +kernel⟩

theorem witness_MoveDeferReinstate :
    (∀ q ∈ [idle, busy .queued, busy .deferred], ∀ ops ∈ [[0, 3]], q.takes (req ops) ops) ∧ ops16 [0, 3] = some 3 ∧
      idle.move? 3 = none ∧ (busy .queued).move? 3 = some (move .queued) ∧ (busy .deferred).move? 3 = some (move .deferred) :=
  ⟨takes_all _ _ (by decide +kernel) (by decide +kernel), by decide +kernel⟩

theorem witness_MoveClearSettles :
    (∀ q ∈ [idle, busy .faulted, busy .lifting], ∀ ops ∈ [[0, 3, 3], [0, 3, 0], [0, 3, 1], [0, 3, 2]], q.takes (req ops) ops) ∧
      opsMoveClear [0, 3, 3] = some (3, 3) ∧ opsMoveClear [0, 3, 2] = some (3, 2) ∧ idle.move? 3 = none ∧
      (busy .lifting).move? 3 = some (move .lifting) ∧ (busy .faulted).move? 3 = some (move .faulted) ∧
      (busy .faulted).bay? 1 = some (bay 1) ∧
      (∀ x ∈ (busy .faulted).moves, x.bay = 1 → x.state ≠ .permitted ∧ x.state ≠ .lifting) ∧
      (∃ x ∈ [move .faulted, { move .lifting with num := 4 }], x.bay = 1 ∧ (x.state = .permitted ∨ x.state = .lifting)) ∧
      { bay 1 with deckCount := 0 }.deckCount < (move .faulted).cls.boxes ∧
      ¬ { bay 1 with deckCount := 1 }.deckCount < (move .faulted).cls.boxes ∧
      { move .faulted with kind := .hatchOff }.kind = .hatchOff ∧ 0 < (bay 1).deckCount ∧
      (({ busy .faulted with orders := [order .cancelling] } : Quay).order? 0).any (fun o => o.state = .cancelling) = true ∧
      ((busy .faulted).order? 0).any (fun o => o.state = .cancelling) = false ∧
      ((busy .faulted).crane? 1).any (fun x => x.preempt = none) = true ∧
      ((busy .faulted).updCrane 1 fun x => { x with state := .fault }).cannotGrant 1 :=
  ⟨takes_all _ _ (by decide +kernel) (by decide +kernel), by decide +kernel⟩

/-! ## Cranes -/

theorem witness_EnableAndSpreader :
    (∀ q ∈ [idle, stopped], ∀ ops ∈ [[3, 1], [2, 2], [2, 1], [1, 0]], q.takes (req ops) ops) ∧
      ops8x2 [3, 1] = some (3, 1) ∧ idle.crane? 3 = none ∧ (idle.crane? 2).isSome = true ∧ stopped.stopInForce = true ∧
      idle.stopInForce = false ∧ idle.hearsFrom .crane (fr 1 [3]) 1 .crane ∧ ops8 [3] = some 3 ∧
      idle.hearsFrom .crane (fr 1 [2]) 1 .crane ∧ SpreaderMode.ofCode 2 = some .twin :=
  ⟨takes_all _ _ (by decide +kernel) (by decide +kernel), by decide +kernel⟩

theorem witness_CraneClearStands :
    (∀ q ∈ [idle, faulty], ∀ ops ∈ [[3, 1], [1, 2], [1, 1], [1, 6]], q.takes (req ops) ops) ∧
      idle.crane? 3 = none ∧ idle.crane? 1 = some (crane 1 1) ∧ idle.bay? 2 = none ∧ (idle.bay? 6).isSome = true ∧
      (crane 1 1).faultMark = false ∧ (faulty.crane? 1).any (fun x => x.faultMark) = true ∧
      ((faulty.crane? 1).map (·.active)) = some none ∧ faulty.currentMove? 1 = none ∧
      ((busy .faulted).crane? 1).map (·.active) = some (some 0) ∧
      (∃ m ∈ (busy .faulted).moves, m.order = 0 ∧ m.state = .faulted) ∧
      ((busy .lifting).currentMove? 1).any (fun m => m.state = .lifting) = true :=
  ⟨takes_all _ _ (by decide +kernel) (by decide +kernel), by decide +kernel⟩

/-- Crane 1 beside crane 2 at bay 6, SEPARATION 2: bay 4 passes, bay 5 and all beyond do not. -/
theorem witness_spanFits : faulty.spanFits 1 ⟨1, 1⟩ ∧ faulty.spanFits 1 ⟨4, 4⟩ ∧ ¬ faulty.spanFits 1 ⟨5, 5⟩ ∧
    ¬ faulty.spanFits 1 ⟨6, 6⟩ := by
  simp only [Quay.spanFits_iff]
  decide +kernel

theorem witness_GantryReqJudged :
    (∀ q ∈ [idle, stopped, travelling, busy .permitted], q.hearsFrom .crane (fr 1 [6]) 1 .crane) ∧
      ops8 [2] = some 2 ∧ idle.bay? 2 = none ∧ (idle.bay? 6).isSome = true ∧ idle.crane? 1 = some (crane 1 1) ∧
      (crane 1 1).bay = some 1 ∧ stopped.stopInForce = true ∧ idle.stopInForce = false ∧
      (travelling.crane? 1).any (fun x => x.state = .positioning) = true ∧
      ((busy .permitted).currentMove? 1).any (fun m => m.state = .permitted) = true ∧ idle.currentMove? 1 = none ∧
      idle.routineSlot .crane = true ∧ (idle.setPool (List.replicate 40 ⟨.lane, 1, .quayResume, 0, false⟩)).routineSlot .crane = false := by
  decide +kernel

/-- The travel span to bay 6 fails against crane 2 at bay 6; that to bay 4 passes. -/
theorem witness_GantryReqSpan : ¬ idle.spanFits 1 ⟨1, 6⟩ ∧ ¬ idle.spanFits 1 ⟨1, 5⟩ ∧ idle.spanFits 1 ⟨1, 4⟩ := by
  simp only [Quay.spanFits_iff]
  decide +kernel

theorem witness_TravelEnds :
    (∀ q ∈ [idle, travelling, faulty, busy .matched, busy .permitted], q.hearsFrom .crane (fr 1 [3]) 1 .crane) ∧
      (busy .permitted).currentMove? 1 = some (move .permitted) ∧ (busy .matched).currentMove? 1 = some (move .matched) ∧
      ((busy .permitted).crane? 1).any (fun x => x.state = .working ∧ x.bay ≠ some 3) = true ∧
      (travelling.crane? 1).any (fun x => x.state = .positioning ∧ x.span = some ⟨1, 3⟩ ∧ x.target = some 3) = true ∧
      (idle.crane? 1).any (fun x => x.state = .idle ∧ x.bay = some 1) = true ∧
      ((busy .matched).crane? 1).any (fun x => x.state = .working ∧ x.bay ≠ some 3) = true ∧
      (faulty.crane? 1).any (fun x => x.state = .fault ∧ x.span = some ⟨1, 1⟩) = true ∧
      ops8 [1] = some 1 ∧ ops8 [3] = some 3 ∧ ops8 [4] = some 4 ∧
      (travelling.crane? 1).any (fun x => x.gantry.isRunning) = true ∧ travelling.craneOnline 1 = true := by decide +kernel

/-! ## The lift permit -/

/-- Crane 1 at its bay with a STAGED or MATCHED move and everything ready for a grant. -/
theorem witness_PermitJudgement :
    (busy .matched).grantBar ≠ some 1 ∧ ((busy .matched).crane? 1).isSome = true ∧
      (busy .matched).currentMove? 1 = some (move .matched) ∧ ((busy .matched).judge 1).pool.length = 1 ∧
      (((busy .matched).judge 1).move? 3).map (fun m => (m.state, m.stamp)) = some (.permitted, some 1) ∧
      ((busy .staged).judge 1) = busy .staged ∧
      (((busy .matched).setCounter 0xFFFF).judge 1).grantCounter = 0 := by decide +kernel

theorem witness_LiftStartTable :
    (∀ q ∈ [busy .permitted, busy .lifting, busy .faulted, idle], q.hearsFrom .crane (fr 1 [0, 5]) 1 .crane) ∧
      opsTag [0, 5] = some 5 ∧ (busy .permitted).currentMove? 1 = some (move .permitted) ∧
      (busy .lifting).currentMove? 1 = some (move .lifting) ∧ (move .lifting).stamp = some 5 ∧
      (busy .faulted).currentMove? 1 = none ∧ (busy .faulted).activeOrder? 1 = some (order .active) ∧
      (∃ m ∈ (busy .faulted).moves, m.order = 0 ∧ m.state = .faulted ∧ m.stamp = some 5) ∧
      idle.currentMove? 1 = none ∧ idle.activeOrder? 1 = none := by decide +kernel

/-- A LIFT DONE payload that reads no boxes. -/
def done : List Byte := [0, 5, 0] ++ List.replicate 8 0

theorem witness_LiftDoneEndsMove :
    (busy .lifting).hearsFrom .crane (fr 1 done) 1 .crane ∧ opsLiftDone done = some (5, none, none) ∧
      (busy .lifting).currentMove? 1 = some (move .lifting) ∧ (move .lifting).state = .lifting ∧
      (move .lifting).stamp = some 5 ∧ (busy .lifting).order? 0 = some (order .active) ∧ (order .active).live ≤ 1 ∧
      1 < { order .active with live := 2 }.live := by decide +kernel

/-- Crane 1 at work on a move in a state, with a second move of its order in another. -/
def twoMoves (a b : MoveState) : Quay :=
  { busy a with
    orders := [{ order .active with total := 2, live := 2 }]
    moves := [move a, { move b with num := 4, pos := 1, truck := none, stamp := none }] }

/-- The last move of order 0 that is not DEFERRED is QUEUED, and one of two; a DEFERRED move waits behind a current move,
and in an order that is not ACTIVE. -/
theorem witness_StallCheck :
    (∀ q ∈ [twoMoves .queued .deferred, twoMoves .queued .queued], ∀ ops ∈ [[0, 3]], q.takes (req ops) ops) ∧
      (twoMoves .queued .deferred).move? 3 = some (move .queued) ∧
      (∀ q ∈ [twoMoves .queued .deferred, twoMoves .queued .queued],
        (q.order? 0).any (fun o => o.state = .active ∧ 0 < o.live ∧ o.stalled = false) = true) ∧
      (∀ x ∈ (twoMoves .queued .deferred).moves, x.order = 0 → x.num ≠ 3 → x.state = .deferred) ∧
      (∃ x ∈ (twoMoves .queued .queued).moves, x.order = 0 ∧ x.num ≠ 3 ∧ x.state ≠ .deferred) ∧
      ((busy .deferred).crane? 1).any (fun x => x.current.isSome) = true ∧
      (({ busy .deferred with orders := [order .cancelling] } : Quay).order? 0).all (fun o => o.state ≠ .active) = true :=
  ⟨takes_all _ _ (by decide +kernel) (by decide +kernel), by decide +kernel⟩

/-- Crane 1 lifts a move of order 0, which order 1 is to preempt; the last move of its order, or with a second in a state. -/
def preempted (last : Bool) (b : MoveState) : Quay :=
  { (if last then busy .lifting else twoMoves .lifting b).updCrane 1 (fun x => { x with preempt := some 1 }) with
    orders := [{ order .active with total := 2, live := if last then 1 else 2 }
              , { order .waiting with slot := 1, tag := 8, priority := .urgent }] }

/-- The same at the last move of order 0, nothing to preempt it, the crane holding something else. -/
def ended (f : Crane → Crane) : Quay := (preempted true .queued).updCrane 1 fun x => f { x with preempt := none }

/-- What the end of order 0 leaves crane 1 to take up: an order to preempt it, the top of the hold stack, the head of the
waiting list, nothing. -/
theorem witness_TakesUp :
    ∀ q ∈ [preempted true .queued, ended fun x => { x with stack := [⟨1, some 1, .twin, false⟩] },
        ended fun x => { x with waiting := [1] }, ended id],
      q.hearsFrom .crane (fr 1 done) 1 .crane ∧ q.currentMove? 1 = some (move .lifting) ∧ (q.moves.map (·.num)).Nodup ∧
        (q.order? 0).any (fun o => decide (o.live ≤ 1)) = true ∧ (q.order? 1).isSome = true ∧
        (q.crane? 1).any (fun x => x.active = some 0) = true := by decide +kernel

/-- While moves of its order are left, a pending push is held by a FAULTED move and else made. -/
theorem witness_PendingPush :
    (∀ b ∈ [MoveState.faulted, .queued], (preempted false b).hearsFrom .crane (fr 1 done) 1 .crane ∧
      (preempted false b).currentMove? 1 = some (move .lifting) ∧ ((preempted false b).moves.map (·.num)).Nodup ∧
      ((preempted false b).crane? 1).any (fun x => x.active = some 0 ∧ x.preempt = some 1) = true ∧
      ((preempted false b).order? 0).any (fun o => o.state = .active ∧ 1 < o.live) = true ∧
      ((preempted false b).order? 1).isSome = true) ∧
    (∃ y ∈ (preempted false .faulted).moves, y.order = 0 ∧ y ≠ move .lifting ∧ y.state = .faulted) ∧
    ∀ y ∈ (preempted false .queued).moves, y.order = 0 → y ≠ move .lifting →
      y.state ≠ .permitted ∧ y.state ≠ .lifting ∧ y.state ≠ .faulted := by decide +kernel

/-- The orders of crane 1 are for crane 1, and no other crane holds a move of them. -/
theorem witness_LiftDoneEndsMove_order :
    (order .active).crane = 1 ∧ (preempted true .queued).order? 0 = some { order .active with total := 2 } ∧
      (preempted false .queued).order? 0 = some { order .active with total := 2, live := 2 } ∧
      ∀ q ∈ [preempted true .queued, ended fun x => { x with waiting := [1] }, preempted false .faulted, preempted false .queued],
        ∀ c y, q.currentMove? c = some y → y.order = 0 → c = 1 := by
  refine ⟨rfl, by decide +kernel, by decide +kernel, fun q h c y hc _ => ?_⟩
  have only : ∀ q ∈ [preempted true .queued, ended fun x => { x with waiting := [1] }, preempted false .faulted,
      preempted false .queued], ∀ x ∈ q.cranes, ∀ y ∈ q.moves, x.current = some y.num → x.num = 1 := by decide +kernel
  obtain ⟨x, hx, rfl, hy, e⟩ := current_of hc
  exact only q h x hx y hy e

/-- The same parts with a QUEUED move of order 1, which is its first; no crane holds it. -/
def noticed (last : Bool) : Quay :=
  { preempted last .queued with
    moves := (preempted last .queued).moves ++ [{ move .queued with num := 5, order := 1, truck := none, stamp := none }] }

theorem witness_Notices : ∀ last ∈ [true, false], (noticed last).order? 1 = (preempted last .queued).order? 1 ∧
    ((noticed last).station .crane 1).state = .online ∧
    Quay.leads (noticed last).moves 1 { move .queued with num := 5, order := 1, truck := none, stamp := none } ∧
    ∀ c y, (noticed last).currentMove? c = some y → y.order ≠ 1 := by
  intro last h
  refine ⟨rfl, ?_, ?_, fun c y hc => ?_⟩
  · exact (by decide +kernel : ∀ last ∈ [true, false], ((noticed last).station .crane 1).state = .online) last h
  · unfold Quay.leads
    revert h last
    decide +kernel
  · obtain ⟨x, hx, -, hy, e⟩ := current_of hc
    exact (by decide +kernel : ∀ last ∈ [true, false], ∀ x ∈ (noticed last).cranes, ∀ y ∈ (noticed last).moves,
      x.current = some y.num → y.order ≠ 1) last h x hx y hy e

/-- Taken up, the order to preempt is announced to its crane after the truck's release. -/
theorem test_work_notice :
    ((after [.liftDone (fr 1 done)] ⟨noticed true, []⟩).quay.pool.map fun f => (f.link, f.dest, f.msg)).take 2 =
      [(.lane, 1, .truckRelease 7 1 .laden none none), (.crane, 1, .workNotice 8 1 .deck .single20)] := by decide +kernel

theorem witness_LiftDoneGoesOn :
    (twoMoves .lifting .queued).hearsFrom .crane (fr 1 done) 1 .crane ∧
      (twoMoves .lifting .queued).currentMove? 1 = some (move .lifting) ∧
      (move .lifting).truck = some ⟨7, 1⟩ ∧ ((twoMoves .lifting .queued).laneOfTag? 7).isSome = true ∧
      (move .lifting).kind = .discharge ∧ { move .lifting with kind := .load }.kind = .load ∧
      ((twoMoves .lifting .queued).order? 0).any (fun o => o.state = .active ∧ 1 < o.live) = true ∧
      ((twoMoves .lifting .queued).crane? 1).any (fun x => x.active = some 0 ∧ x.preempt = none) = true ∧
      (twoMoves .lifting .queued).grantBar ≠ some 1 ∧ ((twoMoves .lifting .queued).moves.map (·.num)).Nodup ∧
      (∀ x ∈ (twoMoves .lifting .queued).moves, x = move .lifting ∨ x.state = .queued) ∧
      ∃ x ∈ (twoMoves .lifting .queued).moves, x.order = 0 ∧ x.state = .queued := by decide +kernel

/-- A crane without a current move, its order's move QUEUED, is staged; each other condition of R67 fails somewhere. -/
theorem witness_Staging :
    let q := (busy .queued).updCrane 1 fun x => { x with current := none }
    q.grantBar ≠ some 1 ∧ (q.crane? 1).any (fun x => x.active = some 0 ∧ x.current = none) = true ∧
      q.order? 0 = some (order .active) ∧ (∀ x ∈ q.moves, x = move .queued ∧ x.state ≠ .faulted) ∧
      (move .queued).isHatch = false ∧ { move .queued with kind := .hatchOff }.isHatch = true ∧
      (idle.crane? 1).map (·.active) = some none ∧ ((busy .matched).crane? 1).any (fun x => x.current ≠ none) = true ∧
      (order .cancelling).state ≠ .active ∧ (∃ x ∈ (busy .faulted).moves, x.order = 0 ∧ x.state = .faulted) ∧
      (∀ x ∈ (busy .deferred).moves, x.order = 0 → x.state ≠ .queued) := by decide +kernel

/-- Both lanes of crane 1 are callable and equally full: lane 1 is taken. With the gates gone, or the lanes CLOSED, none
is. -/
theorem witness_Calls :
    let far := idle.updLink .lane fun k => { k with stations := [] }
    let shut := (idle.updLane 1 fun x => { x with state := .closed }).updLane 2 fun x => { x with state := .closed }
    idle.callable 1 (lane 1 1) ∧
      (∀ k ∈ idle.lanes, k = lane 1 1 ∨ ((lane 1 1).fifo.length = k.fifo.length ∧ (lane 1 1).logical < k.logical)) ∧
      (∀ k ∈ far.lanes, ¬ far.callable 1 k) ∧ (∃ k ∈ far.lanes, k.crane = some 1 ∧ k.state = .opened) ∧
      (∀ k ∈ shut.lanes, k.crane = some 1 → k.state ≠ .opened) := by
  simp only [Quay.callable]
  decide +kernel

theorem witness_Releases :
    (busy .matched).laneOfTag? 7 = some { lane 1 1 with fifo := [truck] } ∧ (move .matched).truck = some ⟨7, 1⟩ ∧
      [truck].find? (fun x => x.tag = 7) = some truck ∧ truck.load = .empty ∧
      { truck with load := .laden }.load = .laden := by decide +kernel

/-- ORDER CANCEL ends the STAGED move while only a DEFERRED one is left: the order, still ACTIVE, is reported stalled. -/
theorem test_cancel_checks_stall :
    ((after [.orderCancel (req [0, 9])] ⟨twoMoves .staged .deferred, []⟩).quay.events.map (·.kind)) =
      [.orderStalled, .orderComplete] := by decide +kernel

theorem witness_LiftFailOutcomes :
    (busy .lifting).hearsFrom .crane (fr 1 [0, 5, 2]) 1 .crane ∧ opsLiftFail [0, 5, 2] = some (5, 2) ∧
      opsLiftFail [0, 5, 3] = some (5, 3) ∧ (busy .lifting).currentMove? 1 = some (move .lifting) ∧
      opsLiftFail [0, 5, 0] = some (5, 0) ∧ ((busy .lifting).moves.map (·.num)).Nodup ∧ (busy .lifting).item Item.failLimit = 3 ∧
      (busy .lifting).item Item.failLimit ≤ { move .lifting with fails := 2 }.fails + 1 ∧
      (move .lifting).fails + 1 < (busy .lifting).item Item.failLimit ∧
      ((busy .lifting).order? 0).any (fun o => o.state = .cancelling) = false ∧
      (({ busy .lifting with orders := [order .cancelling] } : Quay).order? 0).any (fun o => o.state = .cancelling) = true ∧
      (move .lifting).sect = .deck ∧ (move .lifting).isHatch = false ∧ (busy .lifting).bay? 1 = some (bay 1) ∧
      (bay 1).lash = .opened := by decide +kernel

theorem witness_StaleLiftFrames :
    (busy .permitted).hearsFrom .crane (fr 1 done) 1 .crane ∧ (busy .permitted).currentMove? 1 = some (move .permitted) ∧
      (move .permitted).state ≠ .lifting ∧ opsLiftDone done = some (5, none, none) ∧ opsLiftFail [0, 5, 2] = some (5, 2) ∧
      opsLiftFail [0, 5, 3] = some (5, 3) := by decide +kernel

theorem witness_LiftTimersExpire :
    (∀ st ∈ [MoveState.permitted, .lifting, .staged], (busy st).currentMove? 1 = some (move st) ∧
      ((busy st).crane? 1).any (fun x => x.accept.isRunning && x.lift.isRunning && x.truckWait.isRunning) = true) ∧
      (move .staged).isHatch = false := by decide +kernel

/-! ## Truck lanes -/

/-- Lane 2 in a state, its timers running. -/
def laneIn (st : LaneState) : Quay :=
  idle.updLane 2 fun x => { x with
    state := st, lockout := .running 3, window := .running 3, qualifier := .timing, pulse := .running 4 }

theorem witness_LaneOpenAndClear :
    (∀ q ∈ [laneIn .closed, laneIn .opening, laneIn .opened, laneIn .caution, laneIn .faulted], ∀ ops ∈ [[0], [2], [9]],
        q.takes (req ops) ops) ∧
      idle.laneByLogical? 0 = none ∧ idle.laneByLogical? 9 = none ∧
      (∀ st ∈ [LaneState.closed, .opening, .opened, .caution, .faulted],
        ((laneIn st).laneByLogical? 2).any (fun l => l.state = st) = true) ∧
      (idle.setItem Item.obsLockout 0).item Item.obsLockout = 0 ∧ idle.item Item.obsLockout ≠ 0 ∧
      ((laneIn .opening).lane? 2).any (fun l => l.state = .opening ∧ l.lockout.isRunning = true) = true :=
  ⟨takes_all _ _ (by decide +kernel) (by decide +kernel), by decide +kernel⟩

theorem witness_LaneCloseAndAssign :
    (∀ q ∈ [idle, laneIn .closed, busy .lifting, busy .matched], ∀ ops ∈ [[1], [2], [3], [1, 2], [1, 7], [1, 0], [1, 1]],
        q.takes (req ops) ops) ∧
      idle.laneByLogical? 3 = none ∧ (busy .lifting).laneByLogical? 1 = some { lane 1 1 with fifo := [truck] } ∧
      truck.bound = some 3 ∧ (busy .lifting).move? 3 = some (move .lifting) ∧
      (busy .matched).move? 3 = some (move .matched) ∧
      (busy .matched).laneByLogical? 1 = some { lane 1 1 with fifo := [truck] } ∧
      ((laneIn .closed).laneByLogical? 2).any (fun l => l.state = .closed) = true ∧ idle.crane? 7 = none ∧
      (idle.crane? 2).isSome = true ∧ (lane 1 1).crane ≠ some 2 ∧ (lane 1 1).crane = some 1 ∧
      3 ≤ (({ idle with lanes := [lane 1 1, lane 2 2, lane 3 2, lane 4 2] } : Quay).lanes.filter fun x => x.crane = some 2).length ∧
      (idle.lanes.filter fun x => x.crane = some 2).length < 3 :=
  ⟨takes_all _ _ (by decide +kernel) (by decide +kernel), by decide +kernel⟩

/-- A TRUCK ENTER payload: tag, flags, boxes 1 and 2. -/
def enter (tag flags : Byte) : List Byte := [0, tag, flags, 0, 0, 0, 1, 0, 0, 0, 2]

theorem witness_TruckEnterJoinsTail :
    (∀ q ∈ [idle, laneIn .closed, busy .matched], q.hearsFrom .lane (fr 2 (enter 8 2)) 2 .gate) ∧
      idle.lane? 2 = some (lane 2 1) ∧ opsTruckEnter (enter 0 2) = some ⟨0, .empty, .c40, none, none⟩ ∧
      opsTruckEnter (enter 8 1) = some ⟨8, .laden, .c20, none, none⟩ ∧
      opsTruckEnter (enter 8 8) = some ⟨8, .empty, .c20, none, some 2⟩ ∧
      opsTruckEnter (enter 8 2) = some ⟨8, .empty, .c40, none, none⟩ ∧
      ((laneIn .closed).lane? 2).any (fun l => l.state = .closed) = true ∧
      4 ≤ { lane 2 1 with fifo := List.replicate 4 truck }.fifo.length ∧ (lane 2 1).fifo.length < 4 ∧
      (∃ x ∈ (busy .matched).lanes, ∃ y ∈ x.fifo, y.tag = 7) ∧ ¬ ∃ x ∈ (busy .matched).lanes, ∃ y ∈ x.fifo, y.tag = 8 := by
  decide +kernel

/-- A STAGED move that loads box 1, and a QUEUED one after it that loads box 2. -/
def loadOne : Move := { move .staged with kind := .load, box := some 1, truck := none, stamp := none }

def loadTwo : Move := { move .queued with kind := .load, box := some 2, truck := none, stamp := none, num := 4, pos := 1 }

/-- Crane 1 loads boxes 1 and 2: move 3, for box 1, is STAGED, move 4 QUEUED; the trucks that head lanes 1 and 2 carry
the given boxes. -/
def loading (how : SweepOrdering) (a b : Word32) : Quay :=
  { twoMoves .staged .queued with
    orders := [{ order .active with kind := .load, ordering := some how, total := 2, live := 2 }]
    moves := [loadOne, loadTwo]
    lanes := [{ lane 1 1 with fifo := [⟨7, .laden, .c40, some a, none, true, none, false⟩] },
      { lane 2 1 with fifo := [⟨8, .laden, .c40, some b, none, false, none, false⟩] }] }

/-- The first of several free heads, by a look at each lane. -/
theorem firstHead_of {q : Quay} {c : Nat} {test : Truck → Bool} {l : Lane} {y : Truck}
    (h : q.freeHead c none l y) (t : test y = true) (u : ∀ k ∈ q.lanes, k = l ∨ l.logical < k.logical) :
    q.firstHead c none test l y :=
  ⟨h, t, fun k _ f _ => u k f.1⟩

/-- What holds of every head holds of every free head. -/
theorem freeHead_all {q : Quay} {test : Truck → Bool} (h : ∀ k ∈ q.lanes, k.fifo.head?.all test = true) (c : Nat)
    (l : Lane) (y : Truck) (f : q.freeHead c none l y) : test y = true := by
  have := h l f.1
  rw [f.2.2.2.1] at this
  exact this

/-- Box 1 heads a lane: bound. Only box 2 heads lanes: the move of box 2 is promoted under FLEX, and under STRICT the
trucks are misordered. Strange boxes: nothing. -/
theorem witness_Binding :
    (∀ q ∈ [loading .strict 1 1, loading .flex 2 2, loading .strict 2 2, loading .strict 3 3],
      (q.currentMove? 1).any (fun m => m.num = 3 ∧ m.state = .staged ∧ m.isHatch = false) = true) ∧
    (∃ l y, (loading .strict 1 1).firstHead 1 none (fun z => z.suits loadOne) l y) ∧
    (∀ q ∈ [loading .flex 2 2, loading .strict 2 2, loading .strict 3 3], ∀ l y, q.freeHead 1 none l y →
      y.suits loadOne = false) ∧
    (∃ l y, (loading .flex 2 2).firstHead 1 none (fun z => z.carriesBoxesOf loadTwo) l y) ∧
    ((loading .flex 2 2).order? 0).bind (·.ordering) = some .flex ∧
    ((loading .strict 2 2).order? 0).bind (·.ordering) ≠ some .flex := by
  refine ⟨by decide +kernel, ⟨_, _, firstHead_of ⟨List.mem_cons_self, rfl, .inl rfl, rfl, rfl, by simp⟩ (by decide +kernel)
    (by decide +kernel)⟩, fun q hq l y f => ?_, ⟨_, _, firstHead_of ⟨List.mem_cons_self, rfl, .inl rfl, rfl, rfl, by simp⟩
    (by decide +kernel) (by decide +kernel)⟩, by decide +kernel, by decide +kernel⟩
  have all : ∀ q ∈ [loading .flex 2 2, loading .strict 2 2, loading .strict 3 3], ∀ k ∈ q.lanes, k.fifo.head?.all
      (fun y => !y.suits loadOne) = true := by
    decide +kernel
  simpa using freeHead_all (test := fun y => !y.suits loadOne) (all q hq) 1 l y f

/-- The same four plans after an evaluation of binding: which move is current, and what is reported. -/
theorem test_binding :
    ([loading .strict 1 1, loading .flex 2 2, loading .strict 2 2, loading .strict 3 3].map fun q =>
      (((q.evalBinding 1).crane? 1).bind (·.current), ((q.evalBinding 1).currentMove? 1).map (·.truck),
        (q.evalBinding 1).events.map fun e => (e.number, e.detail))) =
      [(some 3, some (some ⟨7, 1⟩), []), (some 4, some (some ⟨7, 1⟩), []),
       (some 3, some none, [(1, [0, 7, 0, 4]), (2, [0, 8, 0, 4])]), (some 3, some none, [])] := by decide +kernel

theorem witness_TrucksSetLeaveAndSpot :
    (∀ q ∈ [idle, busy .matched, busy .lifting], q.hearsFrom .lane (fr 1 [0, 7]) 1 .gate) ∧ opsTag [0, 7] = some 7 ∧
      idle.lane? 1 = some (lane 1 1) ∧ ((lane 1 1).fifo.head?.map (·.tag)) ≠ some 7 ∧
      (busy .matched).lane? 1 = some { lane 1 1 with fifo := [truck] } ∧ idle.laneOfTag? 7 = none ∧
      (busy .matched).laneOfTag? 7 = some { lane 1 1 with fifo := [truck] } ∧ (lane 1 1).phys ≠ 2 ∧
      (busy .matched).hearsFrom .lane (fr 2 [0, 7]) 2 .gate ∧ [truck].find? (fun x => x.tag = 7) = some truck ∧
      truck.bound = some 3 ∧ (busy .lifting).move? 3 = some (move .lifting) ∧ (busy .matched).move? 3 = some (move .matched) ∧
      (busy .matched).hearsFrom .crane (fr 1 [4]) 1 .crane ∧ opsCode [4] = some 4 ∧ (move .matched).truck = some ⟨7, 1⟩ ∧
      (busy .matched).laneByLogical? 1 = some { lane 1 1 with fifo := [truck] } ∧ idle.currentMove? 1 = none := by
  decide +kernel

/-- A lane with an assigned crane and one without, a head truck that is not bound and one bound to a current move. -/
theorem witness_LaneChanged :
    (busy .matched).lane? 1 = some { lane 1 1 with fifo := [truck] } ∧ (lane 1 1).state ≠ .closed ∧
      (busy .matched).currentMove? (move .matched).crane = some (move .matched) ∧
      (move .matched).truck = some ⟨7, 1⟩ ∧ idle.lane? 1 = some (lane 1 1) ∧ (lane 1 1).fifo.head? = none ∧
      (({ idle with lanes := [{ lane 1 1 with crane := none }] } : Quay).lane? 1).any (fun l => l.crane = none) = true ∧
      ((loading .strict 1 1).lane? 1).any (fun l => l.fifo.head?.any fun y => y.bound = none) = true := by decide +kernel

/-- The truck of a MATCHED and of a PERMITTED move leaves; one that is not bound leaves; the head of a FIFO leaves others
behind; the lane's crane is ONLINE, and it is not. -/
theorem witness_TruckExits :
    (∀ st ∈ [MoveState.matched, .permitted], (busy st).hearsFrom .lane (fr 1 [0, 7]) 1 .gate ∧
      (busy st).move? 3 = some (move st) ∧ (move st).truck = some ⟨7, 1⟩) ∧
      (loading .strict 1 1).hearsFrom .lane (fr 1 [0, 7]) 1 .gate ∧
      ((loading .strict 1 1).laneOfTag? 7).any (fun l => l.phys = 1 ∧
        (l.fifo.find? fun x => x.tag = 7).any fun y => y.bound = none) = true ∧
      (∃ y ∈ [truck, { truck with tag := 8, bound := none }], y.tag ≠ 7) ∧ (∀ y ∈ [truck], y.tag = 7) ∧
      ((busy .matched).station .crane 1).state = .online ∧
      (((busy .matched).setStation .crane 1 .offline).station .crane 1).state ≠ .online := by decide +kernel

/-- Lane 1 in CAUTION, its pulse timer running, its head truck bound to a move in a state. -/
def cautioned (st : MoveState) : Quay :=
  (busy st).updLane 1 fun x => { x with state := .caution, qualifier := .timing, pulse := .running 4 }

theorem witness_LaneFaultsBound :
    ∀ st ∈ [MoveState.permitted, .lifting], (cautioned st).MovesOnce ∧ (cautioned st).TruckLaw ∧
      (cautioned st).move? 3 = some (move st) ∧ (cautioned st).currentMove? 1 = some (move st) ∧
      (cautioned st).lane? 1 = (cautioned st).laneByLogical? 1 ∧ (move st).isHatch = false ∧
      ((cautioned st).lane? 1).any (fun l => l.logical = 1 ∧ l.fifo.head? = some truck ∧ l.state = .caution ∧
        l.qualifier = .timing ∧ l.pulse.isRunning = true) = true ∧
      ((cautioned st).crane? 1).all (fun x => x.preempt = none) = true := by
  unfold Quay.MovesOnce Quay.TruckLaw
  decide +kernel

theorem witness_Obstructions :
    idle.obsActive 8 = false ∧ (idle.setObs 8 true).obsActive 8 = true ∧
      (∀ st ∈ [LaneState.disabled, .closed, .opening, .opened, .caution, .faulted],
        ((laneIn st).lane? 2).any (fun l => l.state = st ∧ l.qualifier = .timing ∧ l.pulse.isRunning = true ∧
          l.window.isRunning = true) = true) := by decide +kernel

/-! ## Lashing gangs and the stop -/

theorem witness_LashStartTable :
    (∀ q ∈ [idle, gang .ordered (some 1), gang .working (some 1)], q.hearsFrom .crane (fr 17 [1]) 17 .gang) ∧
      ops8 [1] = some 1 ∧ (idle.gang? 1).any (fun g => g.state = .idle) = true ∧
      ((gang .working (some 1)).gang? 1).any (fun g => g.state = .working ∧ g.bay = some 1 ∧ g.bay ≠ some 6) = true ∧
      ((gang .ordered (some 1)).gang? 1).any (fun g => g.state = .ordered ∧ g.bay = some 1 ∧ g.bay ≠ some 6 ∧
        g.task = some .unlash) = true ∧
      (∃ m ∈ (busy .permitted).moves, m.bay = 1 ∧ (m.state = .permitted ∨ m.state = .lifting)) ∧
      (∀ m ∈ (busy .faulted).moves, m.bay = 1 → m.state ≠ .permitted ∧ m.state ≠ .lifting) := by decide +kernel

/-- The gang at work in bay 1, the bay in a lash state, with `n` cells on deck. -/
def lashing (st : Lash) (n : Nat) : Quay := (gang .working (some 1)).updBay 1 fun x => { x with lash := st, deckCount := n }

theorem witness_LashDoneAndDecline :
    (∀ q ∈ [idle, gang .ordered (some 1), gang .working (some 1), lashing .unlashing 0, lashing .unlashing 1, lashing .lashing 4],
        q.hearsFrom .crane (fr 17 [1]) 17 .gang) ∧
      (idle.gang? 1).any (fun g => g.lastBay = 0 ∧ g.lastBay ≠ 1) = true ∧ ops8 [0] = some 0 ∧
      (lashing .unlashing 0).bay? 1 = some { bay 1 with lash := .unlashing, deckCount := 0 } ∧
      (lashing .unlashing 1).bay? 1 = some { bay 1 with lash := .unlashing, deckCount := 1 } ∧
      (lashing .unlashing 1).liveMoves 1 .deck = 0 ∧
      (lashing .lashing 4).bay? 1 = some { bay 1 with lash := .lashing, deckCount := 4 } ∧
      (lashing .lashing 4).liveMoves 1 .deck = 0 ∧
      ({ lashing .lashing 4 with moves := [move .queued] } : Quay).liveMoves 1 .deck = 1 ∧
      ((gang .ordered (some 1)).gang? 1).any (fun g => g.state = .ordered ∧ g.bay = some 1 ∧ g.task = some .unlash) = true := by
  decide +kernel

/-- Two due bays and two gangs: the head bay goes to the nearer gang, the other to the gang that is left. -/
theorem test_dispatch :
    let q : Quay := { idle with
      gangs := [newGang 1, { newGang 2 with lastBay := 6 }], dispatch := [6, 1]
      craneLink := online fun n => if n = 17 ∨ n = 18 then some .gang else none }
    (q.makeDispatch.gangs.map fun g => (g.num, g.state, g.bay)) = [(1, .ordered, some 1), (2, .ordered, some 6)] ∧
      q.makeDispatch.dispatch = [] ∧
      (q.makeDispatch.pool.map fun f => (f.dest, f.msg)) = [(18, .lashOrder .unlash 6), (17, .lashOrder .unlash 1)] := by
  decide +kernel

/-- A bay given back is ordered again where a gang is ONLINE and a slot is free, and else waits at the head. -/
theorem test_bay_given_back :
    ((after [.lashTimerExpiry 1] ⟨gang .ordered (some 1), []⟩).quay.gangs.map fun g => (g.state, g.bay)) =
        [(.ordered, some 1)] ∧
      ((after [.lashTimerExpiry 1] ⟨(gang .ordered (some 1)).setItem Item.txCap 1, []⟩).quay.gangs.map fun g => (g.state, g.bay)) =
        [(.idle, none)] ∧
      (after [.lashTimerExpiry 1] ⟨(gang .ordered (some 1)).setItem Item.txCap 1, []⟩).quay.dispatch = [1] := by decide +kernel

theorem witness_GangClearAndLashTimer :
    (∀ q ∈ [idle, gang .working (some 1)], ∀ ops ∈ [[2], [1]], q.takes (req ops) ops) ∧ idle.gang? 2 = none ∧
      (idle.gang? 1).any (fun g => g.state ≠ .working) = true ∧
      (∀ st ∈ [GangState.working, .ordered], ((gang st (some 1)).gang? 1).any (fun g => g.state = st ∧ g.bay = some 1 ∧
        g.task = some .unlash ∧ g.timer.isRunning = true) = true) ∧
      (idle.gang? 1).any (fun g => g.timer.isRunning = false) = true ∧
      ((gang .working (some 1)).station .crane 17).state = .online :=
  ⟨takes_all _ _ (by decide +kernel) (by decide +kernel), by decide +kernel⟩

theorem witness_StopStarts :
    idle.brings (.quayStop (req [])) .planner ∧ idle.brings .qstopFall .pin ∧
      idle.brings (.stop .crane (fr 1 [])) (.crane 1) ∧ idle.brings (.stop .crane (fr 17 [])) (.gang 1) ∧
      idle.stop.sources = [] ∧ stopped.stop.sources ≠ [] ∧ Source.pin ∈ stopped.stop.sources ∧
      Source.planner ∉ stopped.stop.sources ∧ stopped.brings (.quayStop (req [])) .planner ∧
      stopped.brings .qstopFall .pin ∧ idle.craneNums.Nodup ∧ (∀ x ∈ idle.cranes, x.preempt = none) ∧
      config.stage = .config :=
  ⟨⟨rfl, _, takes_req idle [] ⟨rfl, rfl, rfl⟩ (by decide +kernel)⟩, ⟨rfl, rfl, rfl⟩, Or.inl ⟨1, by decide +kernel, rfl⟩,
    Or.inr ⟨17, by decide +kernel, rfl⟩, by decide +kernel, by decide +kernel, by decide +kernel, by decide +kernel,
    ⟨rfl, _, takes_req stopped [] ⟨rfl, rfl, rfl⟩ (by decide +kernel)⟩, ⟨rfl, rfl, rfl⟩, by decide +kernel⟩

/-- No move of the idle plan is PERMITTED; a crane of the others lifts or travels as the stop begins. -/
theorem witness_StopHoldsTimers : idle.MovesOnce ∧ (∀ c m, idle.currentMove? c = some m → m.state ≠ .permitted) ∧
    ((busy .lifting).currentMove? 1).any (fun m => m.state = .lifting) = true ∧
    (travelling.crane? 1).any (fun x => x.state = .positioning ∧ x.gantry.isRunning = true) = true := by
  refine ⟨by unfold Quay.MovesOnce; decide +kernel, fun c m h => ?_, by decide +kernel⟩
  have none : idle.moves = [] := rfl
  simp only [Quay.currentMove?, Option.bind_eq_some_iff] at h
  obtain ⟨n, _, h⟩ := h
  exact absurd (Quay.move?_some h).2 (by rw [none]; exact List.not_mem_nil)

theorem witness_QuayResumeEnds :
    (∀ q ∈ [idle, stopped, stopped.updPins fun x => { x with qstopHigh := false }], ∀ ops ∈ [[]], q.takes (req ops) ops) ∧
      idle.stop.sources = [] ∧ stopped.stop.sources ≠ [] ∧ stopped.pins.qstopHigh = true ∧
      (stopped.updPins fun x => { x with qstopHigh := false }).pins.qstopHigh = false :=
  ⟨takes_all _ _ (by decide +kernel) (by decide +kernel), by decide +kernel⟩

/-! ## Quay links -/

/-- A JOIN is judged as any frame: from the reserved station 31 it costs a point, to station 5 nothing, unheard nothing. -/
theorem test_join_judged :
    exec (.join .crane (fr 31 [1, 1, 1])) ⟨idle, []⟩ = .next ⟨(idle.setAck .crane false).addScore .crane 1, []⟩ ∧
      exec (.join .crane ⟨5, 1, [1, 1, 1]⟩) ⟨idle, []⟩ = .next ⟨idle.setAck .crane false, []⟩ ∧
      exec (.join .crane (fr 1 [1, 1, 1])) State.reset = .next ⟨Quay.reset.setAck .crane false, []⟩ :=
  ⟨rfl, rfl, rfl⟩

/-- The plan with the entry of a station OFFLINE. -/
def away (n : Nat) : Quay := idle.setStation .crane n .offline

theorem witness_StationFramesJudged :
    stationRow (.liftStart (fr 1 [5])) = some (.crane, RxKind.liftStart, fr 1 [5]) ∧ Quay.reset.linkCarries .crane = false ∧
      idle.linkCarries .crane = true ∧ stationNumber (fr 32 []).src = 0 ∧ stationNumber (fr 31 []).src = 31 ∧
      12 < (fr 1 (List.replicate 13 0)).payload.length ∧ stationNumber (⟨5, 1, []⟩ : RxFrame).dest = 5 ∧
      idle.hears .crane (fr 1 [5]) 1 ∧ (⟨31, 1, []⟩ : RxFrame).dest.toNat = 31 ∧
      ((away 1).station .crane 1).state ≠ .online ∧ (idle.station .crane 1).state = .online ∧
      (idle.station .crane 17).role = some .gang ∧ Role.sends .gang RxKind.liftStart = false ∧
      (idle.station .crane 1).role = some .crane ∧ Role.sends .crane RxKind.liftStart = true ∧
      (fr 1 [5]).payload.length < payloadLength RxKind.liftStart := by decide +kernel

theorem witness_JoinMakesOnline :
    (∀ q ∈ [idle, away 1], q.hears .crane (fr 1 [1, 1, 2]) 1) ∧ Role.ofCode 1 = some .crane ∧ Role.ofCode 0 = none ∧
      (idle.station .crane 3).role = none ∧ (idle.station .crane 17).role = some .gang ∧ Role.ofCode 2 = some .gang ∧
      (idle.station .lane 2).role = some .gate ∧ Role.ofCode 3 = some .gate ∧ idle.hears .lane (fr 2 [3]) 2 ∧
      idle.bay? 2 = none ∧ (idle.bay? 6).isSome = true ∧ idle.crane? 1 = some (crane 1 1) ∧
      (crane 1 1).span = some ⟨1, 1⟩ ∧ (1 : Nat) < 6 ∧ (newCrane 1).span = none ∧
      (travelling.crane? 1).any (fun x => x.state = .positioning ∧ x.span = some ⟨1, 3⟩) = true ∧
      ((gang .working (some 1)).gang? 1).any (fun g => g.state ≠ .idle) = true ∧
      ((gang .working (some 1)).gangs.map (·.num)).Nodup ∧ ((away 1).station .crane 1).state ≠ .online := by decide +kernel

/-- A crane that holds no span, beside crane 2. -/
def unplaced : Quay := { idle with cranes := [newCrane 1, crane 2 6] }

theorem witness_JoinMakesOnline_span : unplaced.spanFits 1 ⟨1, 1⟩ ∧ ¬ unplaced.spanFits 1 ⟨6, 6⟩ := by
  simp only [Quay.spanFits_iff]
  decide +kernel

/-- A crane that joins anew, or leaves, with a current move in a state; a crane on its way and an ORDERED gang leave. -/
theorem witness_StationsReturn :
    (∀ st ∈ [MoveState.permitted, .lifting, .matched], (busy st).MovesOnce ∧
        (busy st).hears .crane (fr 1 [1, 1, 2]) 1 ∧ (busy st).hearsFrom .crane (fr 1 []) 1 .crane ∧
        (busy st).currentMove? 1 = some (move st) ∧
        ((busy st).crane? 1).any (fun x => x.span = some ⟨1, 1⟩ ∧ x.active ≠ none ∧ x.preempt = none) = true) ∧
      (((busy .permitted).updCrane 1 fun x => { x with enable := false }).crane? 1).any (fun x => x.enable = false ∧
        x.active ≠ none ∧ x.preempt = none) = true ∧
      travelling.hearsFrom .crane (fr 1 []) 1 .crane ∧
      (travelling.crane? 1).any (fun x => x.state = .positioning) = true ∧
      (gang .ordered (some 1)).hearsFrom .crane (fr 17 []) 17 .gang ∧
      ((gang .ordered (some 1)).gang? 1).any (fun g => g.state = .ordered ∧ g.bay = some 1) = true := by
  unfold Quay.MovesOnce
  decide +kernel

theorem witness_LeaveMakesOffline :
    idle.hearsFrom .crane (fr 1 []) 1 .crane ∧ idle.hearsFrom .crane (fr 17 []) 17 .gang ∧
      idle.hearsFrom .lane (fr 2 []) 2 .gate ∧ ((gang .working (some 1)).gang? 1).any (fun g => g.state = .working) = true := by
  decide +kernel

/-- The crane link with a state and a fault score. -/
def scored (st : LinkState) (n : Nat) : Quay := idle.updLink .crane fun k => { k with state := st, score := n }

theorem witness_FaultScore :
    Quay.reset.linkCarries .crane = false ∧ malformedOn .crane [0] = true ∧
      malformedOn .crane ([0, 1, 2, 0] ++ be16 (crc16 [0, 1, 2, 0])) = false ∧
      (scored .active 79).linkCarries .crane = true ∧ (scored .warn 199).linkCarries .crane = true ∧
      (scored .active 78).craneLink.score + 1 < 80 ∧ 80 ≤ (scored .active 79).craneLink.score + 1 ∧
      (scored .warn 198).craneLink.score + 1 < 200 ∧ 200 ≤ (scored .warn 199).craneLink.score + 1 ∧
      (((scored .warn 199).link .crane).stations.map (·.num)).Nodup ∧
      (∃ x ∈ ((scored .warn 199).link .crane).stations, x.state = .online) ∧
      ((idle.link .lane).stations.map (·.num)).Nodup := by decide +kernel

/-- The crane link one malformed frame short of SILENT: its crane at work or on its way, its gang ORDERED. -/
theorem witness_LinkFalls :
    ∀ q ∈ [busy .permitted, busy .lifting, travelling, gang .ordered (some 1)],
      let p := q.updLink .crane fun k => { k with state := .warn, score := 199 }
      p.linkCarries .crane = true ∧ 200 ≤ p.craneLink.score + 1 ∧ p.MovesOnce ∧ p.craneNums.Nodup ∧
        (p.station .crane 1).state = .online ∧ (p.station .crane 1).role = some .crane ∧ (p.crane? 1).isSome = true ∧
        (p.gangs.map (·.num)).Nodup ∧ (p.craneLink.stations.map (·.num)).Nodup ∧
        ∀ x ∈ p.craneLink.stations, x.role = some .gang → 16 < x.num := by
  unfold Quay.MovesOnce
  decide +kernel

theorem witness_scoreFits :
    Quay.scoreFits (scored .active 79).craneLink ∧ Quay.scoreFits (scored .warn 64).craneLink ∧
      Quay.scoreFits (scored .warn 199).craneLink :=
  ⟨(by decide : 79 < Config.warnScore), (by decide : Config.calmScore < 64 ∧ 64 < Config.silentScore),
    (by decide : Config.calmScore < 199 ∧ 199 < Config.silentScore)⟩

theorem witness_Transmission :
    Quay.reset.linkCarries .crane = false ∧ ((sending 0).transmitting? .crane).isSome = true ∧ idle.queueOf .crane = [] ∧
      idle.linkCarries .crane = true ∧ idle.transmitting? .crane = none ∧
      (idle.setPool [⟨.crane, 1, .joinAck, 0, false⟩, ⟨.crane, 1, .quayResume, 0, false⟩]).queueOf .crane =
        [⟨.crane, 1, .quayResume, 0, false⟩, ⟨.crane, 1, .joinAck, 0, false⟩] ∧
      (sending 0).transmitting? .crane = some ⟨.crane, 1, .joinAck, 0, true⟩ ∧ (sending 0).linkCarries .crane = true ∧
      (sending 0).craneLink.score + 8 < 80 ∧ (2 : Nat) < 3 ∧
      (sending 3).transmitting? .crane = some ⟨.crane, 1, .joinAck, 3, true⟩ ∧ (scored .warn 191).craneLink.score + 8 < 200 ∧
      200 ≤ (scored .warn 192).craneLink.score + 8 := by decide +kernel

theorem witness_QuietAndHold :
    idle.craneLink.state ≠ .rejoin ∧ (rejoining true true).craneLink.complete = true ∧
      (rejoining false false).craneLink.state = .rejoin ∧ (rejoining false false).craneLink.complete = false ∧
      (rejoining false false).item Item.rejoinQuiet ≤ (rejoining false false).craneLink.quiet + 1 ∧
      ((rejoining false false).updLink .crane fun k => { k with quiet := 30 }).craneLink.quiet + 1 <
        (rejoining false false).item Item.rejoinQuiet ∧
      (rejoining false true).craneLink.hold = true ∧ (rejoining false false).craneLink.hold = false ∧
      (∀ q ∈ [idle, rejoining true true], ∀ ops ∈ [[0, 1], [3, 1], [1, 2], [1, 1], [1, 0]], (req ops).length ≤ 445) ∧
      ops8x2 [1, 2] = some (1, 2) ∧ linkOfNumber 0 = none ∧ linkOfNumber 3 = none ∧ linkOfNumber 1 = some .crane := by
  decide +kernel

theorem witness_LinkHold :
    ∀ q ∈ [idle, rejoining true true], ∀ ops ∈ [[0, 1], [3, 1], [1, 2], [1, 1], [1, 0]], q.takes (req ops) ops :=
  takes_all _ _ (by decide +kernel) (by decide +kernel)

/-! ## The port, the outputs, the frames and the laws -/

theorem witness_PortReads :
    idle.port.reply = none ∧ 1 ≤ ([] : List Byte).length + 1 ∧ ([] : List Byte).length + 1 < 2 ∧ idle.events = [] ∧
      (0 : Nat) < 1 ∧ idle.claim? 1 = some (crane 1 1) ∧ idle.inFlightMove? 1 = none ∧
      (busy .lifting).inFlightMove? 1 = some (move .lifting) ∧
    (Quay.eventOf idle (Quay.bayOpen 1)).detail.length ≤ 4 ∧ 17 ≤ 17 ∧ [Quay.eventOf idle (Quay.bayOpen 1)].length ≤ (17 - 1) / 16 := by
  decide +kernel

theorem witness_FormatErrorsAndClock :
    (idle.updPort fun x => { x with inHand := true }).port.inHand = true ∧ idle.port.inHand = false ∧ (3 : Byte) ≠ 1 ∧
      (1 : Word16) ≠ 0 ∧ idle.replyStream.length = 1 ∧ idle.eventStream.length = 1 ∧
      min (1 : Word16).toNat (idle.replyStream.length + 1) = 1 ∧ min (9 : Word16).toNat (idle.replyStream.length + 1) = 2 ∧
      config.stage = .config ∧ idle.stage = .run := by decide +kernel

/-- The plan with one event of each level. -/
def reported : Quay :=
  { idle with events := [1, 2, 3].map fun n => { Quay.eventOf idle (Quay.bayOpen 1) with level := n } }

theorem reported_EventLaw : reported.EventLaw := by
  refine ⟨by decide +kernel, ?_⟩
  have : ∀ e ∈ reported.events, 1 ≤ e.level ∧ e.level ≤ 3 := by decide +kernel
  exact this

theorem witness_OutputPins : reported.EventLaw ∧ reported.attn = true ∧ reported.alert = true ∧ idle.alert = false :=
  ⟨reported_EventLaw, by decide +kernel⟩

/-- Both links of a plan agree with their scores. -/
theorem idle_ScoreLaw : idle.ScoreLaw := ⟨(by decide : 0 < Config.warnScore), (by decide : 0 < Config.warnScore)⟩

/-- A command of each family, well-formed, that completes. -/
theorem witness_Frames :
    (Instr.profileRead []).family = .port ∧ (Instr.orderOpen []).family = .orders ∧
      (Instr.liftStart (fr 1 [0, 5])).family = .cranes ∧ (Instr.liftStart (fr 1 [0, 5])).wellFormed = true ∧
      (Instr.truckSet (fr 1 [0, 7])).family = .lanesAndGangs ∧ (Instr.truckSet (fr 1 [0, 7])).wellFormed = true ∧
      (Instr.delivered .crane).family = .linksAndStop ∧ (Instr.delivered .crane).wellFormed = true ∧
      ∃ t, exec (.delivered .crane) ⟨idle, []⟩ = .next t :=
  ⟨rfl, rfl, rfl, by decide +kernel, rfl, by decide +kernel, rfl, rfl, _, rfl⟩

theorem idle_SpanLaw : idle.SpanLaw := by
  refine ⟨by decide +kernel, by decide +kernel, ?_, ?_⟩
  · intro c hc s hs
    have : ∀ x ∈ idle.cranes, (x.span.all fun s => decide (s.low ≤ s.high)) = true := by decide +kernel
    simpa [hs] using this c hc
  · intro i hi j hj a b lt ha hb
    have : ∀ x ∈ idle.cranes, ∀ y ∈ idle.cranes, x.num < y.num →
        (x.span.all fun a => y.span.all fun b => decide (a.high + idle.item Item.separation ≤ b.low)) = true := by
      decide +kernel
    simpa [ha, hb] using this i hi j hj lt

/-- Parts with work in them that satisfy the laws, and a step that goes on. -/
theorem witness_Laws :
    (busy .permitted).PoolLaw ∧ idle.SpanLaw ∧ (busy .permitted).GangLaw ∧ (busy .matched).TruckLaw ∧
      (busy .matched).StackLaw ∧ reported.EventLaw ∧ reported.ProfileLaw ∧ idle.ScoreLaw ∧ idle.BarLaw ∧
      ∃ t, step ⟨idle, [.attempt .crane]⟩ = .next t := by
  refine ⟨?_, idle_SpanLaw, ?_, ?_, ?_, reported_EventLaw, profile_fits _ rfl, idle_ScoreLaw, rfl, _, rfl⟩
  · unfold Quay.PoolLaw; decide +kernel
  · unfold Quay.GangLaw; decide +kernel
  · unfold Quay.TruckLaw; decide +kernel
  · unfold Quay.StackLaw; decide +kernel

theorem witness_StationLaw : (busy .matched).StationLaw := by
  intro l
  cases l <;> decide +kernel

theorem witness_HeadLaw : (busy .matched).HeadLaw ∧ (loading .strict 1 1).HeadLaw := by
  unfold Quay.HeadLaw
  decide +kernel

/-- The same plan with a stop in force and a MATCHED move. -/
def haltedAtWork : Quay := (busy .matched).setStop ⟨[.pin], some .pin, some 0⟩

theorem witness_StopLaw : haltedAtWork.StopLaw ∧ haltedAtWork.stopInForce = true ∧
    haltedAtWork.currentMove? 1 = some (move .matched) := by
  refine ⟨?_, by decide +kernel⟩
  have all : ∀ x ∈ haltedAtWork.moves, x.state ≠ .permitted := by decide +kernel
  intro _ c m h
  simp only [Quay.currentMove?, Option.bind_eq_some_iff] at h
  obtain ⟨n, _, h⟩ := h
  exact all m (Quay.move?_some h).2

theorem witness_CountLaw :
    (busy .lifting).CountLaw ∧ (∀ b ∈ (busy .lifting).bays, b.num = (move .lifting).bay → b.fits (move .lifting)) ∧
      (busy .lifting).moves = [move .lifting] ∧ (move .lifting).inFlight = true ∧ Instr.guardEnd ≠ .reset := by
  refine ⟨?_, ?_, by decide +kernel⟩
  · unfold Quay.CountLaw; decide +kernel
  · have roomy : ∀ b ∈ (busy .lifting).bays, b.num = 1 → b.hatch = .on ∧ 1 ≤ b.deckCount := by decide +kernel
    exact roomy

end Sys2Proof.Tests
end

/-! # The Berth Table: proofs of PLAN RESET, BERTH LOAD and the bay judgement -/

namespace Sys2Proof.Machine

/-! ## Loops over a changed part of the state -/

/-- A loop commutes with a change of state that each of its passes commutes with. -/
theorem forEach_comm {α σ : Type} {f : α → σ → σ} {u : σ → σ} (h : ∀ x s, f x (u s) = u (f x s)) (l : List α) (s : σ) :
    forEach f l (u s) = u (forEach f l s) := by
  induction l generalizing s with
  | nil => rfl
  | cons x xs ih => simp only [forEach, h, ih]

theorem forEach_eq_foldl {α σ : Type} (f : α → σ → σ) (l : List α) (s : σ) :
    forEach f l s = l.foldl (fun s x => f x s) s := by
  induction l generalizing s with
  | nil => rfl
  | cons x xs ih => exact ih (f x s)

/-! ## A request that is served (R154, R155, R169) -/

namespace Quay

/-- A request of RUN whose operands are read is answered by its block's act. -/
theorem request_served {α : Type} {q : Quay} {code : Nat} {record bytes : List Byte} {read : List Byte → Option α}
    {ops : α} (h : q.takes record bytes) (hr : read bytes = some ops) (act : α → Quay → Answer) :
    q.request code record read act = placeAnswer code (act ops (q.takeRequest (record.length + 1))) := by
  obtain ⟨hand, loader, run, operands⟩ := h
  rw [request, takeWith_served ⟨hand, loader, operands⟩ (.inl run), hr]

/-- A refusal of a request just taken changes nothing but the port. -/
theorem placeAnswer_refuse (q : Quay) (record : List Byte) (code : Nat) (why : Reason) :
    placeAnswer code ((q.takeRequest (record.length + 1)).refuse why) = q.refused record code why := rfl

theorem placeAnswer_answers (code : Nat) (a : Answer) : (placeAnswer code a).answers code a.status a.results :=
  ⟨rfl, rfl⟩

theorem placeAnswer_freeList (code : Nat) (a : Answer) : (placeAnswer code a).freeList = a.quay.freeList := rfl

end Quay

/-! ## The judgement of R11 and the effect of R12, row by row -/

namespace Bay

variable {b : Bay} {m : Move}

theorem allows_discharge_deck (hk : m.kind = .discharge) (hs : m.sect = .deck) :
    b.allows m = true ↔ b.hatch = .on ∧ b.lash = .opened ∧ m.cls.boxes ≤ b.deckCount := by
  simp [allows, hk, hs]

theorem allows_load_deck (hk : m.kind = .load) (hs : m.sect = .deck) :
    b.allows m = true ↔ b.hatch = .on ∧ b.lash = .opened ∧ b.deckCount + m.cls.boxes ≤ b.deckCap := by
  simp [allows, hk, hs]

theorem allows_discharge_hold (hk : m.kind = .discharge) (hs : m.sect = .hold) :
    b.allows m = true ↔ b.hatch = .off ∧ m.cls.boxes ≤ b.holdCount := by
  simp [allows, hk, hs]

theorem allows_load_hold (hk : m.kind = .load) (hs : m.sect = .hold) :
    b.allows m = true ↔ b.hatch = .off ∧ b.holdCount + m.cls.boxes ≤ b.holdCap := by
  simp [allows, hk, hs]

theorem allows_hatchOff (hk : m.kind = .hatchOff) :
    b.allows m = true ↔ b.hatch = .on ∧ b.lash = .opened ∧ b.deckCount = 0 := by
  simp [allows, hk]

theorem allows_hatchOn (hk : m.kind = .hatchOn) : b.allows m = true ↔ b.hatch = .off := by
  simp [allows, hk]

theorem apply_discharge_deck (hk : m.kind = .discharge) (hs : m.sect = .deck) :
    b.apply m = { b with deckCount := b.deckCount - m.cls.boxes } := by
  simp [apply, hk, hs]

theorem apply_discharge_hold (hk : m.kind = .discharge) (hs : m.sect = .hold) :
    b.apply m = { b with holdCount := b.holdCount - m.cls.boxes } := by
  simp [apply, hk, hs]

theorem apply_load_deck (hk : m.kind = .load) (hs : m.sect = .deck) :
    b.apply m = { b with deckCount := b.deckCount + m.cls.boxes } := by
  simp [apply, hk, hs]

theorem apply_load_hold (hk : m.kind = .load) (hs : m.sect = .hold) :
    b.apply m = { b with holdCount := b.holdCount + m.cls.boxes } := by
  simp [apply, hk, hs]

theorem apply_hatchOff (hk : m.kind = .hatchOff) : b.apply m = { b with hatch := .off } := by
  simp [apply, hk]

theorem apply_hatchOn (hk : m.kind = .hatchOn) : b.apply m = { b with hatch := .on } := by
  simp [apply, hk]

end Bay

/-- Settles O11: the rows of R11, then the rows of R12. -/
theorem bayJudgementAndEffect : Obligations.BayJudgementAndEffect := fun _ _ =>
  ⟨Bay.allows_discharge_deck, Bay.allows_load_deck, Bay.allows_discharge_hold, Bay.allows_load_hold,
    Bay.allows_hatchOff, Bay.allows_hatchOn, Bay.apply_discharge_deck, Bay.apply_discharge_hold, Bay.apply_load_deck,
    Bay.apply_load_hold, Bay.apply_hatchOff, Bay.apply_hatchOn⟩

/-! ## BERTH LOAD (R15, R16) -/

theorem loadHatch_eq (n : Nat) : loadHatch n = if n = 0 then some .on else if n = 1 then some .off else none := by
  unfold loadHatch
  split <;> simp_all

theorem loadLash_eq (n : Nat) : loadLash n = if n = 0 then some .lashed else if n = 3 then some .opened else none := by
  unfold loadLash
  split <;> simp_all

/-- Step 2 of R15 fails on a capacity or count out of range, on a code that is none, and on OFF with deck boxes. -/
theorem berthLoadValues_none {o : BerthLoadOps}
    (h : 120 < o.deckCap ∨ 200 < o.holdCap ∨ o.deckCap < o.deckCount ∨ o.holdCap < o.holdCount ∨ 1 < o.hatch ∨
      (o.lash ≠ 0 ∧ o.lash ≠ 3) ∨ (o.hatch = 1 ∧ 0 < o.deckCount)) : berthLoadValues o = none := by
  unfold berthLoadValues
  by_cases range : 120 < o.deckCap ∨ 200 < o.holdCap ∨ o.deckCap < o.deckCount ∨ o.holdCap < o.holdCount
  · rw [if_pos range]
  · have codes : 1 < o.hatch ∨ (o.lash ≠ 0 ∧ o.lash ≠ 3) ∨ (o.hatch = 1 ∧ 0 < o.deckCount) := by omega
    rw [if_neg range, loadHatch_eq, loadLash_eq]
    rcases codes with hatch | ⟨l0, l3⟩ | ⟨off, boxes⟩
    · simp [show o.hatch ≠ 0 by omega, show o.hatch ≠ 1 by omega]
    · simp [l0, l3]
    · by_cases l0 : o.lash = 0 <;> by_cases l3 : o.lash = 3 <;> simp [off, boxes, l0, l3]

/-- Where step 2 of R15 passes, the codes 0 and 1 give the hatch, 0 and 3 the lash state. -/
theorem berthLoadValues_some {o : BerthLoadOps} (deckCap : o.deckCap ≤ 120) (holdCap : o.holdCap ≤ 200)
    (deck : o.deckCount ≤ o.deckCap) (hold : o.holdCount ≤ o.holdCap) (hatch : o.hatch ≤ 1)
    (lash : o.lash = 0 ∨ o.lash = 3) (off : o.hatch = 1 → o.deckCount = 0) :
    berthLoadValues o =
      some (if o.hatch = 0 then .on else .off, if o.lash = 0 then .lashed else .opened) := by
  unfold berthLoadValues
  rw [if_neg (by omega), loadHatch_eq, loadLash_eq]
  obtain hatch | hatch : o.hatch = 0 ∨ o.hatch = 1 := by omega
  · rcases lash with lash | lash <;> simp [hatch, lash]
  · rcases lash with lash | lash <;> simp [hatch, lash, off hatch]

namespace Quay

/-- What step 3 of R15 asks: the claiming crane has a current move, a live move names the bay, or a gang is sent to it or
works there. -/
theorem bayBusy_iff {q : Quay} {n : Nat} :
    q.bayBusy n = true ↔ (∃ c, q.claim? n = some c ∧ c.current.isSome = true) ∨ (∃ m ∈ q.moves, m.bay = n) ∨
      (∃ g ∈ q.gangs, (g.state = .ordered ∨ g.state = .working) ∧ g.bay = some n) := by
  have live : (0 < q.liveMoves n .deck ∨ 0 < q.liveMoves n .hold) ↔ ∃ m ∈ q.moves, m.bay = n := by
    simp only [liveMoves, List.length_pos_iff_exists_mem, List.mem_filter, decide_eq_true_eq]
    constructor
    · rintro (⟨m, hm, hb, _⟩ | ⟨m, hm, hb, _⟩) <;> exact ⟨m, hm, hb⟩
    · rintro ⟨m, hm, hb⟩
      cases hs : m.sect with
      | deck => exact .inl ⟨m, hm, hb, hs⟩
      | hold => exact .inr ⟨m, hm, hb, hs⟩
  simp only [bayBusy, Bool.or_eq_true, decide_eq_true_eq, Option.any_eq_true, List.any_eq_true, or_assoc, ← live]

theorem bayBusy_eq_false {q : Quay} {n : Nat} (claimed : ∀ c, q.claim? n = some c → c.current = none)
    (moves : ∀ m ∈ q.moves, m.bay ≠ n)
    (gangs : ∀ g ∈ q.gangs, (g.state = .ordered ∨ g.state = .working) → g.bay ≠ some n) : q.bayBusy n = false := by
  refine Bool.eq_false_iff.2 fun busy => ?_
  rcases bayBusy_iff.1 busy with ⟨c, claims, current⟩ | ⟨m, live, here⟩ | ⟨g, gang, sent, here⟩
  · simp [claimed c claims] at current
  · exact moves m live here
  · exact gangs g gang sent here

theorem loadBay_bays (q : Quay) (o : BerthLoadOps) (h : Hatch) (l : Lash) : (q.loadBay o h l).bays =
    q.bays.map fun x => if x.num = o.bay then
      ⟨o.bay, o.deckCount, o.holdCount, o.deckCap, o.holdCap, h, l⟩ else x := by
  refine (judgeBay_keeps (List.Subset.refl _) (SameBut.refl _ _) .bays (by decide)).trans
    (List.map_congr_left fun x _ => ?_)
  by_cases hx : x.num = o.bay
  · simp only [hx, if_true]
  · simp only [if_neg hx]

theorem loadBay_dispatch (q : Quay) (o : BerthLoadOps) (h : Hatch) (l : Lash) :
    (q.loadBay o h l).dispatch = q.dispatch.filter fun x => x ≠ o.bay :=
  judgeBay_keeps (List.Subset.refl _) (SameBut.refl _ _) .dispatch (by decide)

/-! What BERTH LOAD answers, in the order of R15's checks. -/

theorem berthLoadAct_badBay {q : Quay} {o : BerthLoadOps} (h : q.bay? o.bay = none) :
    q.berthLoadAct o = q.refuse .badBay := by
  simp [berthLoadAct, h]

theorem berthLoadAct_badValue {q : Quay} {o : BerthLoadOps} {b : Bay} (h : q.bay? o.bay = some b)
    (hv : berthLoadValues o = none) : q.berthLoadAct o = q.refuse .badValue := by
  simp [berthLoadAct, h, hv]

theorem berthLoadAct_bayBusy {q : Quay} {o : BerthLoadOps} {b : Bay} {v : Hatch × Lash} (h : q.bay? o.bay = some b)
    (hv : berthLoadValues o = some v) (busy : q.bayBusy o.bay = true) : q.berthLoadAct o = q.refuse .bayBusy := by
  simp [berthLoadAct, h, hv, busy]

theorem berthLoadAct_ok {q : Quay} {o : BerthLoadOps} {b : Bay} {v : Hatch × Lash} (h : q.bay? o.bay = some b)
    (hv : berthLoadValues o = some v) (free : q.bayBusy o.bay = false) :
    q.berthLoadAct o = (q.loadBay o v.1 v.2).ok := by
  simp [berthLoadAct, h, hv, free]

end Quay

/-- BERTH LOAD taken with its operands is its act's answer. -/
theorem exec_berthLoad {s : State} {record bytes : List Byte} {o : BerthLoadOps} (h : s.quay.takes record bytes)
    (ho : opsBerthLoad bytes = some o) : exec (.berthLoad record) s =
      s.next (Quay.placeAnswer Code.berthLoad ((s.quay.takeRequest (record.length + 1)).berthLoadAct o)) :=
  congrArg s.next (Quay.request_served h ho Quay.berthLoadAct)

/-- Settles O12: the checks of R15 in order, then the write of R16. -/
theorem berthLoadWritesBay : Obligations.BerthLoadWritesBay := by
  intro s record bytes o taken ops
  rw [exec_berthLoad taken ops]
  refine ⟨fun absent => ?_, fun b found => ⟨fun bad => ?_, fun dc hc d h hatch lash off => ?_⟩⟩
  · rw [Quay.berthLoadAct_badBay (q := s.quay.takeRequest _) absent, Quay.placeAnswer_refuse]
  · rw [Quay.berthLoadAct_badValue (q := s.quay.takeRequest _) found (berthLoadValues_none bad),
      Quay.placeAnswer_refuse]
  · have values := berthLoadValues_some dc hc d h hatch lash off
    refine ⟨fun busy => ?_, fun noCurrent noMove noGang => ?_⟩
    · rw [Quay.berthLoadAct_bayBusy (q := s.quay.takeRequest _) found values (Quay.bayBusy_iff.2 busy),
        Quay.placeAnswer_refuse]
    · rw [Quay.berthLoadAct_ok (q := s.quay.takeRequest _) found values
        (Quay.bayBusy_eq_false noCurrent noMove noGang)]
      exact ⟨_, rfl, Quay.placeAnswer_answers _ _, Quay.loadBay_bays _ _ _ _, Quay.loadBay_dispatch _ _ _ _⟩

/-! ## PLAN RESET (R10, R20, R22, R43, R93, R96, R119) -/

/-- A gang record after PLAN RESET: an ORDERED gang is IDLE with its last bay kept (R119). -/
def Gang.planReset (g : Gang) : Gang :=
  if g.state = .ordered then { g with state := .idle, task := none, bay := none, timer := .stopped } else g

namespace Quay

/-- The permits of every crane's current move withdrawn, by rising crane (R93; the order: log entry 34). -/
def permitsLapsed (q : Quay) : Quay := forEach (fun c q => q.withdrawForReset c) q.craneNums q

/-- Every ORDERED gang called back, by rising gang (R119; the order: log entry 34). -/
def gangsCalledBack (q : Quay) : Quay := forEach (fun g q => q.gangForReset g) (q.gangs.map (·.num)) q

/-- The frame half of a gang's recall: an ORDERED gang is sent LASH CANCEL (R119). -/
def callBack (q : Quay) (g : Gang) : Quay := if g.state = .ordered then q.sendLashCancel g else q

/-- The part with another port and other gang records, on which neither a withdrawal nor a send rests. -/
def withPortAndGangs (q : Quay) (p : Port) (x : List Gang) : Quay := { q with port := p, gangs := x }

/-! ### What PLAN RESET answers -/

theorem planBusy_iff {q : Quay} : q.planBusy = true ↔
    (∃ m ∈ q.moves, m.state = .lifting ∨ m.state = .faulted) ∨ (∃ g ∈ q.gangs, g.state = .working) := by
  simp [planBusy]

theorem planBusy_eq_false {q : Quay} (moves : ∀ m ∈ q.moves, m.state ≠ .lifting ∧ m.state ≠ .faulted)
    (gangs : ∀ g ∈ q.gangs, g.state ≠ .working) : q.planBusy = false := by
  refine Bool.eq_false_iff.2 fun busy => ?_
  rcases planBusy_iff.1 busy with ⟨m, live, lifting | faulted⟩ | ⟨g, gang, working⟩
  · exact (moves m live).1 lifting
  · exact (moves m live).2 faulted
  · exact gangs g gang working

theorem planResetAct_busy {q : Quay} (h : q.planBusy = true) : q.planResetAct = q.refuse .inFlight := by
  rw [planResetAct, if_pos h]

theorem planResetAct_ok {q : Quay} (h : q.planBusy = false) :
    q.planResetAct = q.permitsLapsed.gangsCalledBack.dropPlan.ok := by
  rw [planResetAct, if_neg (by simp [h])]
  rfl

/-! ### The emptied plan -/

/-- Every record of the Move Store is free in rising order (R22). -/
theorem dropPlan_freeList (q : Quay) : q.dropPlan.freeList = List.range 384 := by
  simp only [dropPlan, Config.moveRecords]

theorem dropPlan_bays {q t : Quay} (bays : t.bays = q.bays) (profile : t.profile = q.profile) :
    t.dropPlan.bays = q.bays.map fun b => q.newBay b.num := by
  have same : t.newBay = q.newBay := by
    funext b
    simp only [newBay, item, itemWord, profile]
  show t.bays.map (fun b => t.newBay b.num) = _
  rw [bays, same]

theorem dropPlan_tags (q : Quay) : q.dropPlan.lanes.map Lane.tags = q.lanes.map Lane.tags := by
  show (q.lanes.map Lane.planReset).map Lane.tags = _
  rw [List.map_map]
  refine List.map_congr_left fun l _ => ?_
  simp [Lane.tags, Lane.planReset]

theorem dropPlan_unbound (q : Quay) : ∀ l ∈ q.dropPlan.lanes, ∀ y ∈ l.fifo, y.bound = none ∧ y.misorder = false := by
  intro l hl y hy
  obtain ⟨l, -, rfl⟩ := List.mem_map.1 hl
  obtain ⟨y, -, rfl⟩ := List.mem_map.1 hy
  exact ⟨rfl, rfl⟩

/-! ### The loop over the cranes -/

/-- What PLAN RESET does about a crane's current move. -/
theorem withdrawForReset_eq (q : Quay) (c : Nat) : q.withdrawForReset c =
    match q.currentMove? c with
    | some m => if m.state = .permitted then q.withdrawn c m .reset else q
    | none => q := by
  unfold withdrawForReset
  cases q.currentMove? c with
  | none => rfl
  | some m => simp only [withdrawCore_withdrawn (cause := .reset) rfl]

theorem withdrawForReset_keeps {l : List Part} {q t : Quay} (hl : [.cranes, .moves, .pool, .events] ⊆ l) {c : Nat}
    (h : SameBut l q t) : SameBut l q (t.withdrawForReset c) := by
  unfold withdrawForReset
  split
  · split
    · exact withdrawCore_keeps hl h
    · exact h
  · exact h

theorem permitsLapsed_keeps {l : List Part} {q t : Quay} (hl : [.cranes, .moves, .pool, .events] ⊆ l)
    (h : SameBut l q t) : SameBut l q t.permitsLapsed :=
  forEach_keeps (fun _ _ => withdrawForReset_keeps hl) _ _ h

/-- A withdrawal changes of a crane no more than the acceptance timer, which PLAN RESET stops in any case. -/
theorem withdrawn_cranes (q : Quay) (c : Nat) (m : Move) (cause : Lapse) :
    (q.withdrawn c m cause).cranes.map Crane.planReset = q.cranes.map Crane.planReset := by
  have cranes : (q.withdrawn c m cause).cranes = (q.updCrane c fun x => { x with accept := .stopped }).cranes :=
    sendUrgent_keeps (l := [.pool, .events]) (List.Subset.refl _) (SameBut.refl _ _) .cranes (by decide)
  rw [cranes, updCrane_cranes, List.map_map]
  refine List.map_congr_left fun x _ => ?_
  by_cases hx : x.num = c <;> simp [hx, Crane.planReset]

theorem permitsLapsed_cranes (q : Quay) : q.permitsLapsed.cranes.map Crane.planReset = q.cranes.map Crane.planReset := by
  refine forEach_inv (P := fun t => t.cranes.map Crane.planReset = q.cranes.map Crane.planReset)
    (fun c t h => Eq.trans ?_ h) _ q rfl
  rw [withdrawForReset_eq]
  split
  · split
    · exact withdrawn_cranes ..
    · rfl
  · rfl

theorem sendUrgent_withPortAndGangs (q : Quay) (p : Port) (x : List Gang) (l : Link) (d : Nat) (m : TxMsg) :
    (q.withPortAndGangs p x).sendUrgent l d m = (q.sendUrgent l d m).withPortAndGangs p x := by
  have carries : (q.withPortAndGangs p x).linkCarries l = q.linkCarries l := by cases l <;> rfl
  have pool : (q.withPortAndGangs p x).pool = q.pool := rfl
  unfold sendUrgent
  rw [carries, pool]
  split
  · rfl
  · split
    · rfl
    · split <;> rfl

theorem withdrawn_withPortAndGangs (q : Quay) (p : Port) (x : List Gang) (c : Nat) (m : Move) (cause : Lapse) :
    (q.withPortAndGangs p x).withdrawn c m cause = (q.withdrawn c m cause).withPortAndGangs p x :=
  congrArg (fun t => post t _) (sendUrgent_withPortAndGangs (updMove (updCrane q c _) m.num _) p x _ _ _)

theorem permitsLapsed_withPortAndGangs (q : Quay) (p : Port) (x : List Gang) :
    (q.withPortAndGangs p x).permitsLapsed = q.permitsLapsed.withPortAndGangs p x := by
  refine forEach_comm (u := fun t => t.withPortAndGangs p x) (fun c t => ?_) _ q
  have current : (t.withPortAndGangs p x).currentMove? c = t.currentMove? c := rfl
  simp only [withdrawForReset_eq, current]
  cases t.currentMove? c with
  | none => rfl
  | some m =>
    by_cases permitted : m.state = .permitted
    · simp only [if_pos permitted, withdrawn_withPortAndGangs]
    · simp only [if_neg permitted]

/-! ### The loop over the gangs -/

theorem gangForReset_keeps {l : List Part} {q t : Quay} (hl : [.gangs, .pool, .events] ⊆ l) {g : Nat}
    (h : SameBut l q t) : SameBut l q (t.gangForReset g) := by
  unfold gangForReset
  split
  · split
    · exact gangToIdle_keeps (List.Subset.trans (by decide) hl)
        (sendLashCancel_keeps (List.Subset.trans (by decide) hl) h)
    · exact h
  · exact h

theorem gangsCalledBack_keeps {l : List Part} {q t : Quay} (hl : [.gangs, .pool, .events] ⊆ l)
    (h : SameBut l q t) : SameBut l q t.gangsCalledBack :=
  forEach_keeps (fun _ _ => gangForReset_keeps hl) _ _ h

theorem sendRoutine_withPortAndGangs (q : Quay) (p : Port) (x : List Gang) (l : Link) (d : Nat) (m : TxMsg) :
    (q.withPortAndGangs p x).sendRoutine l d m = (q.sendRoutine l d m).withPortAndGangs p x := by
  have slot : (q.withPortAndGangs p x).routineSlot l = q.routineSlot l := by cases l <;> rfl
  unfold sendRoutine
  rw [slot]
  split <;> rfl

theorem sendLashCancel_withPortAndGangs (q : Quay) (p : Port) (x : List Gang) (g : Gang) :
    (q.withPortAndGangs p x).sendLashCancel g = (q.sendLashCancel g).withPortAndGangs p x := by
  unfold sendLashCancel
  split
  · exact sendRoutine_withPortAndGangs ..
  · rfl

/-- A gang's recall as the frame the spec names. -/
theorem callBack_eq (q : Quay) (g : Gang) : q.callBack g =
    match g.state, g.task, g.bay with
    | .ordered, some task, some b => q.sendRoutine .crane (16 + g.num) (.lashCancel task b)
    | _, _, _ => q := by
  unfold callBack sendLashCancel
  cases g.state <;> cases g.task <;> cases g.bay <;> rfl

/-- The recall of a gang whose number no other gang has. -/
theorem gangForReset_at (q : Quay) (p : Port) {done todo : List Gang} {g : Gang}
    (once : ((done ++ g :: todo).map (·.num)).Nodup) :
    (q.withPortAndGangs p (done ++ g :: todo)).gangForReset g.num =
      (q.callBack g).withPortAndGangs p (done ++ g.planReset :: todo) := by
  rw [List.map_append, List.map_cons, List.nodup_append, List.nodup_cons] at once
  obtain ⟨-, ⟨fresh, -⟩, apart⟩ := once
  have before : ∀ x ∈ done, x.num ≠ g.num := fun x hx => apart _ (List.mem_map_of_mem hx) _ List.mem_cons_self
  have after : ∀ x ∈ todo, x.num ≠ g.num := fun x hx same => fresh (same ▸ List.mem_map_of_mem hx)
  have found : (q.withPortAndGangs p (done ++ g :: todo)).gang? g.num = some g := by
    have none : done.find? (fun x => decide (x.num = g.num)) = none :=
      List.find?_eq_none.2 fun x hx => by simpa using before x hx
    show (done ++ g :: todo).find? _ = _
    rw [List.find?_append, none, Option.none_or, List.find?_cons_of_pos (by simp)]
  have others {l : List Gang} (f : Gang → Gang) (apart : ∀ x ∈ l, x.num ≠ g.num) :
      (l.map fun x => if x.num = g.num then f x else x) = l :=
    (List.map_congr_left fun x hx => if_neg (apart x hx)).trans (List.map_id' l)
  by_cases ordered : g.state = .ordered
  · simp only [gangForReset, found, ordered, if_true, sendLashCancel_withPortAndGangs, callBack, Gang.planReset]
    show withPortAndGangs _ p (List.map _ (done ++ g :: todo)) = _
    rw [List.map_append, List.map_cons, others _ before, others _ after, if_pos rfl]
    rfl
  · simp only [gangForReset, found, ordered, if_false, callBack, Gang.planReset]

/-- Of gangs with a number each, those still to do are recalled one after another; no frame rests on the records. -/
theorem forEach_gangForReset (p : Port) (todo : List Gang) : ∀ (done : List Gang) (q : Quay),
    ((done ++ todo).map (·.num)).Nodup →
    forEach (fun g q => q.gangForReset g) (todo.map (·.num)) (q.withPortAndGangs p (done ++ todo)) =
      (todo.foldl callBack q).withPortAndGangs p (done ++ todo.map Gang.planReset) := by
  induction todo with
  | nil => exact fun _ _ _ => rfl
  | cons g todo ih =>
    intro done q once
    have num : g.planReset.num = g.num := by unfold Gang.planReset; split <;> rfl
    have once' : ((done ++ [g.planReset] ++ todo).map (·.num)).Nodup := by simpa [num] using once
    simpa [forEach, gangForReset_at q p once] using ih (done ++ [g.planReset]) (q.callBack g) once'

theorem gangsCalledBack_withPortAndGangs (q : Quay) (p : Port) {x : List Gang} (once : (x.map (·.num)).Nodup) :
    (q.withPortAndGangs p x).gangsCalledBack = (x.foldl callBack q).withPortAndGangs p (x.map Gang.planReset) :=
  forEach_gangForReset p x [] q once

/-! ### The part after both loops -/

/-- Of a request just taken, both loops leave all but moves, pool, events, gangs, cranes and the port. -/
theorem loops_keep (q : Quay) (n : Nat) :
    SameBut [.port, .cranes, .moves, .gangs, .pool, .events] q (q.takeRequest n).permitsLapsed.gangsCalledBack :=
  gangsCalledBack_keeps (by decide) (permitsLapsed_keeps (by decide)
    (takeRequest_keeps (by decide) (SameBut.refl _ q)))

theorem loops_cranes (q : Quay) (n : Nat) :
    (q.takeRequest n).permitsLapsed.gangsCalledBack.cranes.map Crane.planReset = q.cranes.map Crane.planReset := by
  have kept : (q.takeRequest n).permitsLapsed.gangsCalledBack.cranes = (q.takeRequest n).permitsLapsed.cranes :=
    gangsCalledBack_keeps (List.Subset.refl _) (SameBut.refl _ _) .cranes (by decide)
  rw [kept]
  exact permitsLapsed_cranes _

/-- Withdrawals and recalls, the port set aside. -/
theorem loops_eq (q : Quay) (n : Nat) (once : (q.gangs.map (·.num)).Nodup) :
    (q.takeRequest n).permitsLapsed.gangsCalledBack =
      (q.gangs.foldl callBack q.permitsLapsed).withPortAndGangs (q.takeRequest n).port
        (q.gangs.map Gang.planReset) := by
  rw [show q.takeRequest n = q.withPortAndGangs (q.takeRequest n).port q.gangs from rfl,
    permitsLapsed_withPortAndGangs, gangsCalledBack_withPortAndGangs _ _ once]
  rfl

end Quay

/-- PLAN RESET taken is its act's answer. -/
theorem exec_planReset {s : State} {record bytes : List Byte} (h : s.quay.takes record bytes) :
    exec (.planReset record) s =
      s.next (Quay.placeAnswer Code.planReset (s.quay.takeRequest (record.length + 1)).planResetAct) :=
  congrArg s.next (Quay.request_served h (ops := ()) rfl fun _ q => q.planResetAct)

/-- Settles O10: the refusal; else the loops over cranes and gangs, each passed over by what it leaves, and the emptied
plan. -/
theorem planResetDrops : Obligations.PlanResetDrops := by
  intro s record bytes taken
  rw [exec_planReset taken]
  refine ⟨fun busy => ?_, fun noLift noWork => ?_⟩
  · rw [Quay.planResetAct_busy (q := s.quay.takeRequest _) (Quay.planBusy_iff.2 busy), Quay.placeAnswer_refuse]
  · rw [Quay.planResetAct_ok (q := s.quay.takeRequest _) (Quay.planBusy_eq_false noLift noWork)]
    have kept := s.quay.loops_keep (record.length + 1)
    have cranes := s.quay.loops_cranes (record.length + 1)
    have loops := s.quay.loops_eq (record.length + 1)
    generalize (s.quay.takeRequest (record.length + 1)).permitsLapsed.gangsCalledBack = x at kept cranes loops
    have lanes : x.lanes = s.quay.lanes := kept .lanes (by decide)
    refine ⟨_, rfl, Quay.placeAnswer_answers _ _, ?bays, rfl, rfl, rfl,
      (Quay.placeAnswer_freeList _ _).trans x.dropPlan_freeList, rfl, ?tags, x.dropPlan_unbound, cranes,
      fun once => ?told, kept .grantCounter (by decide), kept .stop (by decide), kept .clock (by decide)⟩
    case bays => exact Quay.dropPlan_bays (kept .bays (by decide)) (kept .profile (by decide))
    case tags => exact x.dropPlan_tags.trans (congrArg _ lanes)
    case told =>
      intro lapsing recalled
      have lapsed : lapsing = s.quay.permitsLapsed :=
        (congrArg (List.foldl · s.quay s.quay.craneNums)
          (funext fun q => funext fun c => (q.withdrawForReset_eq c).symm)).trans (forEach_eq_foldl _ _ _).symm
      have back : recalled = s.quay.gangs.foldl Quay.callBack s.quay.permitsLapsed :=
        lapsed ▸ congrArg (List.foldl · lapsing s.quay.gangs)
          (funext fun q => funext fun g => (q.callBack_eq g).symm)
      rw [back, loops once]
      exact ⟨rfl, rfl, rfl⟩

end Sys2Proof.Machine
